-- ==== Sys2Proof/Config.lean ====
section
/-!
DEFINITION. The four parameters of PWC (spec/00_scope.md R7) and the widths that follow from them. Nothing else is a
parameter (R8). Every definition that the parameters reach takes the widths, or the predicates, as arguments; where a width is
left out, the spec's default is meant. The names that the host fixes (`Instr`, `State`, `exec`, `step`) are those of the default
realisation `Config.params` (log entries 1 to 3).
-/

namespace Sys2Proof

/-- The parameters of R7, each a field. A claim may quantify over all of them. -/
structure Params where
  /-- `TSW`: the width of a timestamp, of the references, the distances, the span registers and the timestamp fields of events
  (D3) -/
  tsw : Nat
  /-- `RATE_W`: the width of the rate operand of SETRATE, of the six LUT fields and of `margin` (D4) -/
  rateW : Nat
  /-- `CMD_KNOWN`: whether the external command table has an entry for a code (D19; spec/20_memory.md R63) -/
  cmdKnown : BitVec 8 → Bool
  /-- `RATE_SUPPORTED`: which nonzero rates the timing-profile realisation supports (D10) -/
  rateSupported : BitVec rateW → Bool

/-- The constraints of R7: `TSW >= 1` and `RATE_W >= 1`; there is none on the two predicates. -/
def Params.wf (p : Params) : Bool := 1 ≤ p.tsw && 1 ≤ p.rateW

namespace Config

/-- The default of `TSW` (R7). DESIGN CHOICE, unsafe: the fixed names of the model have this width (log entry 1). -/
abbrev TSW : Nat := 32

/-- The default of `RATE_W` (R7). DESIGN CHOICE, unsafe: the fixed names of the model have this width (log entry 1). -/
abbrev RATE_W : Nat := 32

/-- The width of the `data` field of a command word, `max(TSW, RATE_W)` (spec/30_encoding.md R91). -/
abbrev dataW (tsw rateW : Nat) : Nat := max tsw rateW

/-- The width of a command word: `op`, `rsv`, `lvl` above the `data` field (R91). -/
abbrev cmdW (tsw rateW : Nat) : Nat := 2 + 1 + 1 + dataW tsw rateW

/-- The width of an event word, `11 + 2*TSW` (spec/30_encoding.md R98). -/
abbrev evtW (tsw : Nat) : Nat := 3 + 8 + tsw + tsw

/-- `dataW` at the defaults: 32. -/
abbrev DATA_W : Nat := dataW TSW RATE_W

/-- `cmdW` at the defaults: 36. -/
abbrev CMD_W : Nat := cmdW TSW RATE_W

/-- `evtW` at the defaults: 75. -/
abbrev EVT_W : Nat := evtW TSW

/-- `RATE_SUPPORTED` at the spec's default: every nonzero rate (R7, D10). DESIGN CHOICE, unsafe: a realisation may support
fewer (log entry 2). -/
def RATE_SUPPORTED (rate : BitVec RATE_W) : Bool := rate != 0

/-- `CMD_KNOWN` of the fixed names. The spec gives no default and no contents, so it has no body: no proof can know whether a
code is present (log entry 3, safe). -/
opaque CMD_KNOWN (code : BitVec 8) : Bool

/-- The realisation that the fixed names of the model stand for. -/
abbrev params : Params where
  tsw := TSW
  rateW := RATE_W
  cmdKnown := CMD_KNOWN
  rateSupported := RATE_SUPPORTED

end Config
end Sys2Proof
end

