-- ==== Sys2Proof/Word.lean ====
section
/-!
DEFINITION. The words of PWC. Every register and field is an unsigned integer (spec/00_scope.md R9); there is no
signed quantity. A width that is left out is the spec's default (R7).
-/

namespace Sys2Proof

/-- A sample index or a distance between two of them, modulo `2^TSW` (spec/00_scope.md R7). -/
abbrev Timestamp (tsw : Nat := Config.TSW) := BitVec tsw

/-- A sample rate, a LUT entry or the margin (spec/00_scope.md R7). -/
abbrev Count (rateW : Nat := Config.RATE_W) := BitVec rateW

/-- A byte of a frame, a command code, the `val` field of an event. -/
abbrev Byte := BitVec 8

/-- A word of the command port (spec/30_encoding.md R91). -/
abbrev CmdWord (tsw : Nat := Config.TSW) (rateW : Nat := Config.RATE_W) := BitVec (Config.cmdW tsw rateW)

/-- A word of the event port (spec/30_encoding.md R98). -/
abbrev EventWord (tsw : Nat := Config.TSW) := BitVec (Config.evtW tsw)

end Sys2Proof
end

