-- ==== Sys2Proof/Syntax.lean ====
section
/-!
DEFINITION. The commands of PWC, one constructor per row of spec/opcode_table.json, the same commands at any widths, and the
command notation of spec/30_encoding.md R102 and R103 as abstract syntax.
-/

namespace Sys2Proof

/-- A command word's meaning as an instruction (spec/30_encoding.md R91, R104). -/
inductive Instr where
  /-- `NOP` (spec/43_nop_reserved.md R190). -/
  | nop
  /-- `SETRATE rate` (spec/40_setrate_timing_profile.md R120): `rate` in samples per second. -/
  | setrate (rate : Count)
  /-- `EDGE ts, level` (spec/41_edge_classifier.md R140): `level` true is a rising transition, the line now high. -/
  | edge (ts : Timestamp) (level : Bool)
  /-- The reserved opcode, `op = 3` (spec/43_nop_reserved.md R191): accepted by PWC, not a legal command of a program. -/
  | reserved3
deriving DecidableEq, Repr

/-- A command of a realisation with other widths (spec/00_scope.md R7). `Instr` is the one of the defaults. -/
inductive Command (tsw rateW : Nat) where
  /-- `NOP` -/
  | nop
  /-- `SETRATE rate` -/
  | setrate (rate : Count rateW)
  /-- `EDGE ts, level` -/
  | edge (ts : Timestamp tsw) (level : Bool)
  /-- the reserved opcode -/
  | reserved3
deriving DecidableEq, Repr

/-- A command at the default widths, as an instruction. -/
def Command.instr : Command Config.TSW Config.RATE_W → Instr
  | .nop => .nop
  | .setrate rate => .setrate rate
  | .edge ts level => .edge ts level
  | .reserved3 => .reserved3

/-- An instruction as a command at the default widths. -/
def Instr.command : Instr → Command Config.TSW Config.RATE_W
  | .nop => .nop
  | .setrate rate => .setrate rate
  | .edge ts level => .edge ts level
  | .reserved3 => .reserved3

/-- One line of a program in the notation of R102, or a pseudo-command of R103. Operands are the integers a
writer wrote; WellFormed.lean says which are in range. -/
inductive AsmLine where
  /-- `NOP` -/
  | nop
  /-- `SETRATE <rate>` -/
  | setrate (rate : Nat)
  /-- `EDGE <ts>, R` (`rising` true) or `EDGE <ts>, F` -/
  | edge (ts : Nat) (rising : Bool)
  /-- `RISE <ts>` -/
  | rise (ts : Nat)
  /-- `FALL <ts>` -/
  | fall (ts : Nat)
  /-- `PULSE <t>, <h>, <l>`: the high phase began at `t`, lasts `h`, and a low phase of `l` follows. -/
  | pulse (t h l : Nat)
deriving DecidableEq, Repr

end Sys2Proof
end

