-- ==== Sys2Proof/WellFormed.lean ====
section
/-!
DEFINITION. Which commands a program may hold and which operands a line of the notation may have. A command's
operands are bit fields of exactly their width, so the only command a host must not issue is the reserved one
(spec/43_nop_reserved.md R191, spec/93_implementation_defined.md U2).
-/

namespace Sys2Proof

/-- A legal command: not the reserved opcode (R191: "a host must not issue it"). -/
def Command.wf {tsw rateW : Nat} : Command tsw rateW → Bool
  | .nop => true
  | .setrate _ => true
  | .edge _ _ => true
  | .reserved3 => false

/-- A legal command at the default widths. -/
def Instr.wf (i : Instr) : Bool := i.command.wf

/-- The operand ranges of R102: a rate is `0 .. 2^RATE_W - 1`, a timestamp `0 .. 2^TSW - 1`. A `PULSE` expands to two
`EDGE` lines (R103), whose timestamps must be in range; DESIGN CHOICE: the sums are not wrapped (log entry 11). -/
def AsmLine.wf (line : AsmLine) (tsw : Nat := Config.TSW) (rateW : Nat := Config.RATE_W) : Bool :=
  match line with
  | .nop => true
  | .setrate rate => rate < 2 ^ rateW
  | .edge ts _ => ts < 2 ^ tsw
  | .rise ts => ts < 2 ^ tsw
  | .fall ts => ts < 2 ^ tsw
  | .pulse t h l => t + h + l < 2 ^ tsw

end Sys2Proof
end

