-- ==== Sys2Proof/Decode.lean ====
section
/-!
DEFINITION. Command words: their fields (spec/30_encoding.md R91, R95), the total decoder (R104), the encoder of the
canonical spellings (R92 to R94), the assembler of the notation (R102, R103), each at any widths and at the defaults, and the
host's table reading.
-/

namespace Sys2Proof

section fields
variable {dataW : Nat} (w : BitVec (2 + 1 + 1 + dataW))

/-- `op`, the two most significant bits: `cmd[35:34]` at the defaults (R91). -/
def opField : BitVec 2 := w.extractLsb' (dataW + 2) 2

/-- `lvl`, `cmd[32]` at the defaults (R91). -/
def lvlField : Bool := w.getLsbD dataW

/-- `data`, `cmd[31:0]` at the defaults (R91). -/
def dataField : BitVec dataW := w.extractLsb' 0 dataW

/-- A command word from its fields, `{op, rsv, lvl, data}` (R91). -/
def commandWord (op : BitVec 2) (rsv lvl : Bool) (data : BitVec dataW) : BitVec (2 + 1 + 1 + dataW) :=
  op ++ BitVec.ofBool rsv ++ BitVec.ofBool lvl ++ data

end fields

section widths
variable {tsw rateW : Nat}

/-- The rate operand, `data[RATE_W-1:0]` (R93, R95). -/
def rateOperand (w : CmdWord tsw rateW) : Count rateW := (dataField w).setWidth rateW

/-- The timestamp operand, `data[TSW-1:0]` (R94, R95). -/
def tsOperand (w : CmdWord tsw rateW) : Timestamp tsw := (dataField w).setWidth tsw

/-- The decoder at any widths: total, by the two bits of `op` alone (R104). `rsv` and the operand bits a command does not use
are not looked at (R96; log entry 12). -/
def decodeCommand (w : CmdWord tsw rateW) : Command tsw rateW :=
  if opField w = 0 then .nop
  else if opField w = 1 then .setrate (rateOperand w)
  else if opField w = 2 then .edge (tsOperand w) (lvlField w)
  else .reserved3

/-- The canonical word of a command (R92 to R94): `rsv` and every unused bit 0. For the reserved opcode, which has no
canonical spelling, the word of the table's match column. -/
def Command.word : Command tsw rateW → CmdWord tsw rateW
  | .nop => commandWord 0 false false 0
  | .setrate rate => commandWord 1 false false (rate.setWidth (Config.dataW tsw rateW))
  | .edge ts level => commandWord 2 false level (ts.setWidth (Config.dataW tsw rateW))
  | .reserved3 => commandWord 3 false false 0

/-- A word a host should use: a legal command in its canonical spelling (R96, U3). -/
def legalWord (w : CmdWord tsw rateW) : Bool := (decodeCommand w).wf && (decodeCommand w).word == w

/-- The commands a line of the notation stands for, in order (R102, R103). -/
def AsmLine.commands : AsmLine → List (Command tsw rateW)
  | .nop => [.nop]
  | .setrate rate => [.setrate (BitVec.ofNat _ rate)]
  | .edge ts rising => [.edge (BitVec.ofNat _ ts) rising]
  | .rise ts => [.edge (BitVec.ofNat _ ts) true]
  | .fall ts => [.edge (BitVec.ofNat _ ts) false]
  | .pulse t h l => [.edge (BitVec.ofNat _ (t + h)) false, .edge (BitVec.ofNat _ (t + h + l)) true]

end widths

/-- The decoder at the default widths. -/
def decode (w : CmdWord) : Instr := (decodeCommand w).instr

/-- The encoder at the default widths. -/
def encode (i : Instr) : CmdWord := i.command.word

/-- The instructions a line of the notation stands for at the default widths. -/
def assembleLine (line : AsmLine) : List Instr := line.commands.map Command.instr

/-- The command words of a program in the notation: "the order of lines is the order of acceptance" (R102). -/
def assemble (lines : List AsmLine) : List CmdWord := (lines.flatMap assembleLine).map encode

/-- The instruction the decoder reads from the low `nbits` bits of `w`, as spec/opcode_table.json numbers them: there is
one word. A number that does not fit the command port's wires is no command word and is refused (log entry 13). -/
def decodeTableWord (nbits w : Nat) : Option Instr :=
  if w % 2 ^ nbits < 2 ^ Config.CMD_W then some (decode (BitVec.ofNat _ (w % 2 ^ nbits))) else none

end Sys2Proof
end

