-- ==== Sys2Proof/Machine/State.lean ====
section
/-!
DEFINITION. The state of PWC as plain data: the registers of spec/10_state.md R20 (`Regs`), and the model's machine state,
which puts beside them what goes in and what comes out (`State`). A width that is left out is the spec's default (R7).
-/

namespace Sys2Proof.Machine

/-- DecoderState (spec/10_state.md R21). All four codes are legal. -/
inductive FsmState where
  /-- code 0: no edge consumed since the last reset or frame reset -/
  | idle
  /-- code 1: exactly one edge consumed since then -/
  | start
  /-- code 2: the last consumed edge closed an interval stored in `lo_distance` -/
  | gotLow
  /-- code 3: the last consumed edge closed an interval stored in `hi_distance` -/
  | gotHigh
deriving DecidableEq, Repr

/-- The kinds of event PWC produces (spec/30_encoding.md R99). Kinds 0 and 7 are never produced and have no constructor. -/
inductive EventKind where
  /-- kind 1 -/
  | start
  /-- kind 2 -/
  | bit
  /-- kind 3 -/
  | byte
  /-- kind 4 -/
  | frameInvalid
  /-- kind 5 -/
  | frameUnknown
  /-- kind 6 -/
  | frameKnown
deriving DecidableEq, Repr

/-- One event, the tagged span of spec/30_encoding.md R98. `stop` is the field the spec calls `end`. -/
structure Event (tsw : Nat := Config.TSW) where
  kind : EventKind
  val : Byte
  start : Timestamp tsw
  stop : Timestamp tsw
deriving DecidableEq, Repr

/-- The three patterns of spec/20_memory.md R61, in the order of precedence. `p = 3` does not exist. -/
inductive Pattern where
  | start
  | bit1
  | bit0
deriving DecidableEq, Repr

/-- The two phases of a pulse (spec/20_memory.md R61). -/
inductive Phase where
  | hi
  | lo
deriving DecidableEq, Repr

/-- The timing-profile LUT and the margin beside it (spec/10_state.md R28, R29). -/
structure Profile (rateW : Nat := Config.RATE_W) where
  startbitHi : Count rateW
  startbitLo : Count rateW
  bit1Hi : Count rateW
  bit1Lo : Count rateW
  bit0Hi : Count rateW
  bit0Lo : Count rateW
  margin : Count rateW
deriving DecidableEq, Repr

/-- Four timestamp registers indexed by the byte number (spec/10_state.md R27). -/
structure Spans (tsw : Nat := Config.TSW) where
  b0 : Timestamp tsw
  b1 : Timestamp tsw
  b2 : Timestamp tsw
  b3 : Timestamp tsw
deriving DecidableEq, Repr

/-- The complete state of PWC: "the following registers and nothing else" (spec/10_state.md R20). -/
structure Regs (tsw : Nat := Config.TSW) (rateW : Nat := Config.RATE_W) where
  /-- `state` (R21) -/
  state : FsmState
  /-- `await_pol` (R22): true when a rising edge is awaited -/
  awaitPol : Bool
  /-- `ref0` (R23): the timestamp of the most recently consumed edge -/
  ref0 : Timestamp tsw
  /-- `ref1` (R23): the one before it -/
  ref1 : Timestamp tsw
  /-- `nref` (R23): how many edges have been recorded, saturating at 2 -/
  nref : BitVec 2
  /-- `hi_distance` (R24) -/
  hiDistance : Timestamp tsw
  /-- `lo_distance` (R24) -/
  loDistance : Timestamp tsw
  /-- `acc` (R25): the accepted bits, the first at bit 31 -/
  acc : BitVec 32
  /-- `nbits` (R26): how many bits `acc` holds -/
  nbits : BitVec 6
  /-- `bstart[0..3]` (R27) -/
  bstart : Spans tsw
  /-- `bend[0..3]` (R27) -/
  bend : Spans tsw
  /-- the LUT and `margin` (R28, R29) -/
  profile : Profile rateW
  /-- `profile_valid` (R30) -/
  profileValid : Bool
  /-- `fault` (R31), sticky -/
  fault : Bool
  /-- `fcause` (R31): 0 none, 1 SampleRateMissing -/
  fcause : BitVec 2
deriving DecidableEq, Repr

/-- What the host drives on the input ports at one rising edge of `clk` (spec/30_encoding.md R90). -/
structure PortEdge (tsw : Nat := Config.TSW) (rateW : Nat := Config.RATE_W) where
  rst : Bool
  cmdValid : Bool
  cmd : CmdWord tsw rateW
deriving DecidableEq, Repr

/-- The machine state of the model. `regs` is the state of PWC. The two streams are "the input and the output of the step
function" (spec/10_state.md R32 item (b)), not registers: the host's step takes one argument, so they stand here
(log entry 4). -/
structure State where
  regs : Regs
  /-- the clock edges still to come, oldest first -/
  cmdPort : List PortEdge
  /-- the events produced so far, oldest first -/
  events : List Event
deriving DecidableEq, Repr

/-- What `Ops.nextAction` says the next clock edge does, with the state the edge leaves to be worked on. -/
inductive PortAction where
  /-- hardware reset, or no command accepted: the state after the edge -/
  | settled (s : State)
  /-- a command was accepted: the word, and the state its meaning starts from -/
  | accepted (w : CmdWord) (s : State)
deriving DecidableEq, Repr

/-- The faults that stop the model: none. "Nothing in this hardware is `stuck`: every command completes"
(spec/93_implementation_defined.md section 1); SampleRateMissing is a next state with `fault = 1`
(spec/60_exceptions.md R208). Safe: there is nothing to raise (log entry 14). -/
inductive Fault where
deriving DecidableEq, Repr

/-- The refusals of the model. -/
inductive Refusal where
  /-- Raised by an arm of `exec` for an instruction with no meaning; every instruction of the table has one, so no arm
  raises it. Safe: a refused instruction proves nothing. -/
  | notModelled (mnemonic : String)
deriving DecidableEq, Repr

/-- Four registers cleared. -/
def Spans.zero {tsw : Nat} : Spans tsw := ⟨0, 0, 0, 0⟩

/-- The LUT and `margin` cleared. -/
def Profile.zero {rateW : Nat} : Profile rateW := ⟨0, 0, 0, 0, 0, 0, 0⟩

/-- The value of every register after hardware reset (spec/10_state.md R34). -/
def Regs.reset {tsw rateW : Nat} : Regs tsw rateW where
  state := .idle
  awaitPol := true
  ref0 := 0
  ref1 := 0
  nref := 0
  hiDistance := 0
  loDistance := 0
  acc := 0
  nbits := 0
  bstart := Spans.zero
  bend := Spans.zero
  profile := Profile.zero
  profileValid := false
  fault := false
  fcause := 0

/-- The machine right after reset: the registers as R34 says, nothing presented yet, nothing produced yet. DESIGN CHOICE
for the two streams only (log entry 5). -/
def State.reset : State where
  regs := Regs.reset
  cmdPort := []
  events := []

end Sys2Proof.Machine
end

