-- ==== Sys2Proof/Machine/Operands.lean ====
section
/-!
DEFINITION. What the commands read and compare: the LUT index space (spec/20_memory.md R61, R62), the range comparison
(spec/00_scope.md R11), the match predicates (spec/41_edge_classifier.md R148), the bytes of a frame
(spec/42_frame_assembler.md R172), the span registers by number, and the codes and words of events (spec/30_encoding.md
R98, R99).
-/

namespace Sys2Proof.Machine

variable {tsw rateW : Nat}

/-- The pattern index `p` (R61). -/
def Pattern.code : Pattern → BitVec 2
  | .start => 0
  | .bit1 => 1
  | .bit0 => 2

/-- The phase index `ph` (R61). -/
def Phase.code : Phase → BitVec 1
  | .hi => 0
  | .lo => 1

/-- The 3-bit LUT index `{p[1:0], ph}` (R61). -/
def lutIndex (p : Pattern) (ph : Phase) : BitVec 3 := p.code ++ ph.code

/-- The entry of the LUT at a 3-bit index (R61); the indices 6 and 7 are never generated and have no entry. -/
def Profile.entry (P : Profile rateW) (i : BitVec 3) : Option (Count rateW) :=
  if i = 0 then some P.startbitHi
  else if i = 1 then some P.startbitLo
  else if i = 2 then some P.bit1Hi
  else if i = 3 then some P.bit1Lo
  else if i = 4 then some P.bit0Hi
  else if i = 5 then some P.bit0Lo
  else none

/-- `LUT(p, ph)` (R62): the current value of the entry. -/
def Profile.lut (P : Profile rateW) : Pattern → Phase → Count rateW
  | .start, .hi => P.startbitHi
  | .start, .lo => P.startbitLo
  | .bit1, .hi => P.bit1Hi
  | .bit1, .lo => P.bit1Lo
  | .bit0, .hi => P.bit0Hi
  | .bit0, .lo => P.bit0Lo

/-- `in_range(d, e, m)` (spec/00_scope.md R11): `e - m <= d <= e + m` over the mathematical integers. -/
def inRange (d e m : Nat) : Bool :=
  decide ((e : Int) - (m : Int) ≤ (d : Int)) && decide ((d : Int) ≤ (e : Int) + (m : Int))

/-- `match(p)` for a pair of distances under a profile (R148): both windows must hold. -/
def Profile.accepts (P : Profile rateW) (p : Pattern) (hi lo : Timestamp tsw) : Bool :=
  inRange hi.toNat (P.lut p .hi).toNat P.margin.toNat && inRange lo.toNat (P.lut p .lo).toNat P.margin.toNat

/-- The measurement `(ts - ref0) mod 2^TSW` (spec/41_edge_classifier.md R145). -/
def distance (ts ref0 : Timestamp tsw) : Timestamp tsw := ts - ref0

/-- Register `k` of four (spec/10_state.md R27). There are four: an index past 3 reads as the fourth, and none is asked for. -/
def Spans.get (x : Spans tsw) : Nat → Timestamp tsw
  | 0 => x.b0
  | 1 => x.b1
  | 2 => x.b2
  | _ => x.b3

/-- Register `k` of four written with `v`. An index past 3 names no register and writes none (log entry 8). -/
def Spans.set (x : Spans tsw) (k : Nat) (v : Timestamp tsw) : Spans tsw :=
  match k with
  | 0 => { x with b0 := v }
  | 1 => { x with b1 := v }
  | 2 => { x with b2 := v }
  | 3 => { x with b3 := v }
  | _ => x

/-- `acc[i] <- v`. -/
def storeBit (acc : BitVec 32) (i : Nat) (v : Bool) : BitVec 32 :=
  if v then acc ||| (1#32 <<< i) else acc &&& ~~~(1#32 <<< i)

/-- `byte[k] = acc[31 - 8k : 24 - 8k]` (R172), `k = 0..3`. -/
def frameByte (acc : BitVec 32) (k : Nat) : Byte := acc.extractLsb' (24 - 8 * k) 8

/-- The `val` field of a BIT event: `val[0] = v`, `val[7:1] = 0` (R99). -/
def bitVal (v : Bool) : Byte := if v then 1 else 0

/-- The code of an event kind (R99). -/
def EventKind.code : EventKind → BitVec 3
  | .start => 1
  | .bit => 2
  | .byte => 3
  | .frameInvalid => 4
  | .frameUnknown => 5
  | .frameKnown => 6

/-- The kind a code stands for; 0 and 7 are no kind (R99, spec/93_implementation_defined.md U12). -/
def EventKind.ofCode (c : BitVec 3) : Option EventKind :=
  if c = 1 then some .start
  else if c = 2 then some .bit
  else if c = 3 then some .byte
  else if c = 4 then some .frameInvalid
  else if c = 5 then some .frameUnknown
  else if c = 6 then some .frameKnown
  else none

/-- The event word `{kind, val, start, end}` (R98). -/
def Event.word (e : Event tsw) : EventWord tsw := e.kind.code ++ e.val ++ e.start ++ e.stop

/-- The event a word of the event port stands for, by the fields of R98; none for the kinds never produced. -/
def Event.ofWord (w : EventWord tsw) : Option (Event tsw) :=
  (EventKind.ofCode (w.extractLsb' (8 + tsw + tsw) 3)).map fun kind =>
    { kind := kind
      val := w.extractLsb' (tsw + tsw) 8
      start := w.extractLsb' tsw tsw
      stop := w.extractLsb' 0 tsw }

end Sys2Proof.Machine
end

