-- ==== Sys2Proof/Machine/Flags.lean ====
section
/-!
DEFINITION. The conditions the commands test: the gates of EDGE (spec/41_edge_classifier.md R141 to R143), the frame
checks and the verdict (spec/42_frame_assembler.md R174 to R177), and the status ports (spec/10_state.md R33).
-/

namespace Sys2Proof.Machine

variable {tsw rateW : Nat}

/-- The sample-rate gate (R142): SampleRateMissing is raised exactly when this holds (R140, spec/60_exceptions.md R201). -/
def Regs.rateMissing (r : Regs tsw rateW) : Bool := !r.fault && !r.profileValid

/-- The polarity filter (R143): an edge of this level is dropped. -/
def Regs.drops (r : Regs tsw rateW) (level : Bool) : Bool := level != r.awaitPol

/-- An edge of this level is consumed: it passes the three gates (R141 to R143; spec/00_scope.md glossary). -/
def Regs.consumes (r : Regs tsw rateW) (level : Bool) : Bool := !r.fault && r.profileValid && (level == r.awaitPol)

/-- The first case of the assignment (R146): a rising edge in a state other than START closes a low phase. -/
def Regs.closesLow (r : Regs tsw rateW) (level : Bool) : Bool := level && r.state != .start

/-- `hdr_ok` (R174): `byte[0] == 0xCA and byte[1] == 0x34`. -/
def hdrOk (acc : BitVec 32) : Bool := frameByte acc 0 == 0xCA && frameByte acc 1 == 0x34

/-- `sum_ok` (R175): `byte[2] == byte[3] XOR 0xFF`. -/
def sumOk (acc : BitVec 32) : Bool := frameByte acc 2 == (frameByte acc 3 ^^^ 0xFF)

/-- What PWC drives on `tab_addr` for a window (R177; the port pair of spec/30_encoding.md R90): `byte[2]` when both checks
pass, and no look-up otherwise. -/
def tabAddr (acc : BitVec 32) : Option Byte := if hdrOk acc && sumOk acc then some (frameByte acc 2) else none

/-- The verdict (R176). `known` answers on `tab_hit` for the code on `tab_addr` (R177; spec/20_memory.md R63). -/
def verdict (known : Byte → Bool) (acc : BitVec 32) : EventKind :=
  match tabAddr acc with
  | some code => if known code then .frameKnown else .frameUnknown
  | none => .frameInvalid

/-- The code of `state` (spec/10_state.md R21). -/
def FsmState.code : FsmState → BitVec 2
  | .idle => 0
  | .start => 1
  | .gotLow => 2
  | .gotHigh => 3

/-- The status ports (spec/10_state.md R33): `await_pol`, `state[1:0]`, `nbits[5:0]`, `profile_valid`, `fault`, `fcause[1:0]`. -/
structure StatusPorts where
  awaitPol : BitVec 1
  state : BitVec 2
  nbits : BitVec 6
  profileValid : BitVec 1
  fault : BitVec 1
  fcause : BitVec 2
deriving DecidableEq, Repr

/-- The values the status ports carry: the registers of the same names, continuously (R33). -/
def Regs.statusPorts (r : Regs tsw rateW) : StatusPorts where
  awaitPol := BitVec.ofBool r.awaitPol
  state := r.state.code
  nbits := r.nbits
  profileValid := BitVec.ofBool r.profileValid
  fault := BitVec.ofBool r.fault
  fcause := r.fcause

end Sys2Proof.Machine
end

