-- ==== Sys2Proof/Machine/Ops.lean ====
section
/-!
DEFINITION. The named operations on the registers and the ports that the commands share: taking the fault
(spec/60_exceptions.md R208) and leaving it (R211), writing the LUT, recording edges, storing a bit, the frame reset, emitting
events, and what a clock edge does with the command port (spec/30_encoding.md R105).
-/

namespace Sys2Proof.Machine

variable {tsw rateW : Nat}

/-- `raise SampleRateMissing`: "`fault <- 1`, `fcause <- 1`, and the command ends" (spec/60_exceptions.md R208). -/
def Regs.raiseSampleRateMissing (r : Regs tsw rateW) : Regs tsw rateW := { r with fault := true, fcause := 1 }

/-- Hardware reset (spec/70_reset_and_hazards.md R230), the only way out of the fault (spec/60_exceptions.md R211): every
register gets its reset value, whatever the state. -/
def Regs.hardwareReset (_r : Regs tsw rateW) : Regs tsw rateW := Regs.reset

/-- The LUT, `margin` and `profile_valid` written all together (spec/20_memory.md R67). -/
def Regs.writeProfile (r : Regs tsw rateW) (P : Profile rateW) (valid : Bool) : Regs tsw rateW :=
  { r with profile := P, profileValid := valid }

/-- The `IDLE` arm (spec/41_edge_classifier.md R144): the first reference. -/
def Regs.recordFirst (r : Regs tsw rateW) (ts : Timestamp tsw) : Regs tsw rateW :=
  { r with ref0 := ts, nref := 1, state := .start, awaitPol := !r.awaitPol }

/-- The assignment of R146, first case: the low phase just completed. -/
def Regs.assignLow (r : Regs tsw rateW) (d : Timestamp tsw) : Regs tsw rateW := { r with loDistance := d, state := .gotLow }

/-- The assignment of R146, second case: the interval goes to `hi_distance`. -/
def Regs.assignHigh (r : Regs tsw rateW) (d : Timestamp tsw) : Regs tsw rateW :=
  { r with hiDistance := d, loDistance := 0, state := .gotHigh }

/-- Record and flip (R153). -/
def Regs.recordEdge (r : Regs tsw rateW) (ts : Timestamp tsw) : Regs tsw rateW :=
  { r with ref1 := r.ref0, ref0 := ts, nref := 2, awaitPol := !r.awaitPol }

/-- The registers after `append_bit(v, s, e)` (spec/42_frame_assembler.md R170). With `n > 31` there is no `acc[31 - n]`
and no bit is stored: no run reaches that (spec/10_state.md R35; log entry 8). -/
def Regs.appendBit (r : Regs tsw rateW) (v : Bool) (s e : Timestamp tsw) : Regs tsw rateW :=
  { r with
    acc := if r.nbits.toNat ≤ 31 then storeBit r.acc (31 - r.nbits.toNat) v else r.acc
    bstart := if r.nbits.toNat % 8 = 0 then r.bstart.set (r.nbits.toNat / 8) s else r.bstart
    bend := if r.nbits.toNat % 8 = 7 then r.bend.set (r.nbits.toNat / 8) e else r.bend
    nbits := r.nbits + 1 }

/-- `frame_reset()` (spec/42_frame_assembler.md R179). `await_pol`, the LUT and the fault are not written. -/
def Regs.frameReset (r : Regs tsw rateW) : Regs tsw rateW :=
  { r with
    acc := 0, nbits := 0, bstart := Spans.zero, bend := Spans.zero
    ref0 := 0, ref1 := 0, nref := 0, hiDistance := 0, loDistance := 0, state := .idle }

/-- A command's registers and events written back: all writes take effect together, and the events follow the earlier
ones in order (spec/00_scope.md R10, spec/20_memory.md R68, R70). -/
def State.commit (s : State) (out : Regs × List Event) : State :=
  { s with regs := out.1, events := s.events ++ out.2 }

/-- What the next clock edge does (spec/30_encoding.md R105, spec/60_exceptions.md R207 point 1): `rst` wins and produces no
event (spec/70_reset_and_hazards.md R230, R232, R233); with `cmd_valid = 1` the word is accepted; otherwise nothing
changes, as when the host presents nothing at all (spec/43_nop_reserved.md R192, spec/60_exceptions.md R217). -/
def nextAction (s : State) : PortAction :=
  match s.cmdPort with
  | [] => .settled s
  | e :: rest =>
    if e.rst then .settled { s with regs := s.regs.hardwareReset, cmdPort := rest }
    else if e.cmdValid then .accepted e.cmd { s with cmdPort := rest }
    else .settled { s with cmdPort := rest }

/-- The clock edge that presents the command word `w`. -/
def presents (w : CmdWord tsw rateW) : PortEdge tsw rateW := { rst := false, cmdValid := true, cmd := w }

end Sys2Proof.Machine
end

