-- ==== Sys2Proof/Machine/Edge.lean ====
section
/-!
DEFINITION. EDGE: the edge classifier (spec/41_edge_classifier.md) and the frame assembler inside it
(spec/42_frame_assembler.md).
-/

namespace Sys2Proof.Machine

variable {tsw rateW : Nat}

/-- The event `append_bit(v, s, e)` emits (spec/42_frame_assembler.md R170). -/
def bitEvent (v : Bool) (s e : Timestamp tsw) : Event tsw := ⟨.bit, bitVal v, s, e⟩

/-- The Start marker's event (spec/41_edge_classifier.md R150). -/
def startEvent (s e : Timestamp tsw) : Event tsw := ⟨.start, 0, s, e⟩

/-- `BYTE(byte[k], bstart[k], bend[k])` (spec/42_frame_assembler.md R173). -/
def byteEvent (r : Regs tsw rateW) (k : Nat) : Event tsw := ⟨.byte, frameByte r.acc k, r.bstart.get k, r.bend.get k⟩

/-- The frame event: the verdict, `byte[2]`, and the span of the whole window (spec/42_frame_assembler.md R176, R178). -/
def frameEvent (known : Byte → Bool) (r : Regs tsw rateW) : Event tsw :=
  ⟨verdict known r.acc, frameByte r.acc 2, r.bstart.b0, r.bend.b3⟩

/-- The events of `assemble_frame`, in order (spec/42_frame_assembler.md R171, R180). -/
def frameEvents (known : Byte → Bool) (r : Regs tsw rateW) : List (Event tsw) :=
  [byteEvent r 0, byteEvent r 1, byteEvent r 2, byteEvent r 3, frameEvent known r]

/-- `match(p)` for the pair now held in the distance registers (spec/41_edge_classifier.md R148). -/
def Regs.matchesPattern (r : Regs tsw rateW) (p : Pattern) : Bool := r.profile.accepts p r.hiDistance r.loDistance

/-- The first pattern that matches, in the order START, BIT1, BIT0 (spec/41_edge_classifier.md R149). -/
def Regs.firstMatch (r : Regs tsw rateW) : Option Pattern :=
  if r.matchesPattern .start then some .start
  else if r.matchesPattern .bit1 then some .bit1
  else if r.matchesPattern .bit0 then some .bit0
  else none

/-- `classify(ts)` (spec/41_edge_classifier.md R149 to R152). The span starts at `ref1` as it stands before the edge is
recorded (R156). -/
def classify (ts : Timestamp tsw) (r : Regs tsw rateW) : Regs tsw rateW × List (Event tsw) :=
  match r.firstMatch with
  | some .start => (r, [startEvent r.ref1 ts])
  | some .bit1 => (r.appendBit true r.ref1 ts, [bitEvent true r.ref1 ts])
  | some .bit0 => (r.appendBit false r.ref1 ts, [bitEvent false r.ref1 ts])
  | none => (r, [])

/-- The assignment of the measured distance (R146) and, when the state became `GOT_LOW`, the classification (R147). -/
def assignAndClassify (ts : Timestamp tsw) (level : Bool) (r : Regs tsw rateW) : Regs tsw rateW × List (Event tsw) :=
  if r.closesLow level then classify ts (r.assignLow (distance ts r.ref0))
  else (r.assignHigh (distance ts r.ref0), [])

/-- The frame trigger (R154): with `nbits = 32` the frame is assembled and the frame reset ends the command. -/
def frameTrigger (known : Byte → Bool) (out : Regs tsw rateW × List (Event tsw)) : Regs tsw rateW × List (Event tsw) :=
  if out.1.nbits = 32 then (out.1.frameReset, out.2 ++ frameEvents known out.1) else out

/-- A consumed edge outside `IDLE`: measure, classify, record and flip (R153), frame trigger (R154). -/
def consumeEdge (known : Byte → Bool) (ts : Timestamp tsw) (level : Bool) (r : Regs tsw rateW) :
    Regs tsw rateW × List (Event tsw) :=
  let out := assignAndClassify ts level r
  frameTrigger known (out.1.recordEdge ts, out.2)

/-- `EDGE ts, level` (R140) with the command table `known`: the registers after it and the events it produces. -/
def edge (known : Byte → Bool) (ts : Timestamp tsw) (level : Bool) (r : Regs tsw rateW) :
    Regs tsw rateW × List (Event tsw) :=
  if r.fault then (r, [])
  else if r.rateMissing then (r.raiseSampleRateMissing, [])
  else if r.drops level then (r, [])
  else if r.state = .idle then (r.recordFirst ts, [])
  else consumeEdge known ts level r

/-- `EDGE` with the command table of the configuration. -/
def execEdge (ts : Timestamp) (level : Bool) (s : State) : Host.Outcome State Fault Refusal :=
  .next (s.commit (edge Config.CMD_KNOWN ts level s.regs))

end Sys2Proof.Machine
end

