-- ==== Sys2Proof/Machine/Idle.lean ====
section
/-!
DEFINITION. The commands that change nothing: NOP (spec/43_nop_reserved.md R190) and the reserved opcode (R191).
-/

namespace Sys2Proof.Machine

/-- `NOP`: "the identity on every state", no event, no fault (R190). -/
def execNop (s : State) : Host.Outcome State Fault Refusal := .next s

/-- The reserved opcode: "PWC accepts the word and changes nothing" (R191). It is not a legal command of a program
(`Instr.wf`; U2 and log entry 7). -/
def execReserved3 (s : State) : Host.Outcome State Fault Refusal := .next s

end Sys2Proof.Machine
end

