-- ==== Sys2Proof/Machine/Setrate.lean ====
section
/-!
DEFINITION. SETRATE and the timing-profile function (spec/40_setrate_timing_profile.md).
-/

namespace Sys2Proof.Machine

variable {tsw rateW : Nat}

/-- `profile(r)` (R121), over the mathematical integers with floor division; every value fits its register when `r` does
(R127). -/
def profileOf (r : Nat) (rateW : Nat := Config.RATE_W) : Profile rateW where
  startbitHi := BitVec.ofNat _ (r * 9 / 1000)
  startbitLo := BitVec.ofNat _ (r * 9 / 2000)
  bit1Hi := BitVec.ofNat _ (r * 11 / 20000)
  bit1Lo := BitVec.ofNat _ (r * 17 / 10000)
  bit0Hi := BitVec.ofNat _ (r * 11 / 20000)
  bit0Lo := BitVec.ofNat _ (r * 11 / 20000)
  margin := BitVec.ofNat _ (r * 11 / 20000 / 2)

/-- A rate is accepted when it is nonzero and the realisation supports it (R122). -/
def rateOk (supported : Count rateW → Bool) (rate : Count rateW) : Bool := rate != 0 && supported rate

/-- `SETRATE rate` (R120) for a realisation that supports the rates of `supported` (spec/00_scope.md R7). -/
def setrate (supported : Count rateW → Bool) (rate : Count rateW) (r : Regs tsw rateW) : Regs tsw rateW :=
  if r.fault then r
  else if rateOk supported rate then r.writeProfile (profileOf rate.toNat rateW) true
  else r.writeProfile (profileOf 0 rateW) false

/-- `SETRATE` with the parameter `RATE_SUPPORTED` of the configuration. It produces no event and raises nothing (R120). -/
def execSetrate (rate : Count) (s : State) : Host.Outcome State Fault Refusal :=
  .next { s with regs := setrate Config.RATE_SUPPORTED rate s.regs }

end Sys2Proof.Machine
end

