-- ==== Sys2Proof/Machine/Step.lean ====
section
/-!
DEFINITION. One step: one clock edge at the command port, with the whole effect of the command it accepts, events
included (spec/20_memory.md R68; spec/70_reset_and_hazards.md R246: "A model has no clock").
-/

namespace Sys2Proof.Machine

/-- One clock edge. The accepted word, if there is one, is decoded and run. -/
def step (s : State) : Host.Outcome State Fault Refusal :=
  match nextAction s with
  | .settled t => .next t
  | .accepted w t => exec (decode w) t

/-- `s` with the command of the low `nbits` bits of `w` presented at its next clock edge, before whatever the host was to
present. PWC fetches nothing: this stands for the host presenting a command (log entry 5). -/
def State.withFetchWord (s : State) (nbits w : Nat) : State :=
  { s with cmdPort := presents (BitVec.ofNat _ (w % 2 ^ nbits)) :: s.cmdPort }

end Sys2Proof.Machine
end

