-- ==== Sys2Proof/Machine/Realisation.lean ====
section
/-!
DEFINITION. PWC at any parameters (spec/00_scope.md R7), in the form the spec asks of a model: "a function from a command list
to an event list and a final state" (spec/70_reset_and_hazards.md R246), with the inputs and the events outside the state record
(spec/10_state.md R32 item (b)). It runs the same operations as `exec` and `step`, which are this machine at the parameters
`Config.params`.
-/

namespace Sys2Proof

open Machine

/-- One accepted command: the registers after it and its events, in order. -/
def Params.accept (p : Params) (c : Command p.tsw p.rateW) (r : Regs p.tsw p.rateW) :
    Regs p.tsw p.rateW × List (Event p.tsw) :=
  match c with
  | .nop => (r, [])
  | .setrate rate => (setrate p.rateSupported rate r, [])
  | .edge ts level => edge p.cmdKnown ts level r
  | .reserved3 => (r, [])

/-- One clock edge at the command port (spec/30_encoding.md R105; `rst` first, spec/70_reset_and_hazards.md R230, R232, R233). -/
def Params.tick (p : Params) (e : PortEdge p.tsw p.rateW) (r : Regs p.tsw p.rateW) :
    Regs p.tsw p.rateW × List (Event p.tsw) :=
  if e.rst then (r.hardwareReset, [])
  else if e.cmdValid then p.accept (decodeCommand e.cmd) r
  else (r, [])

/-- Many clock edges: the registers at the end and all the events, in order (spec/20_memory.md R70). -/
def Params.run (p : Params) : List (PortEdge p.tsw p.rateW) → Regs p.tsw p.rateW → Regs p.tsw p.rateW × List (Event p.tsw)
  | [], r => (r, [])
  | e :: edges, r => ((p.run edges (p.tick e r).1).1, (p.tick e r).2 ++ (p.run edges (p.tick e r).1).2)

end Sys2Proof
end

