-- ==== Sys2Proof/Machine/Ports.lean ====
section
/-!
DEFINITION. The reference timing of the ports (spec/70_reset_and_hazards.md R246, spec/30_encoding.md R90, R101), clock edge
by clock edge, at any parameters. Not normative: no meaning depends on it (R246), and `step` does not call it. DEDUCED, unsafe:
that `cmd_ready` is low in every cycle in which an event is on `evt` (log entry 10).
-/

namespace Sys2Proof.Machine

/-- PWC between two clock edges under the reference timing: its registers, and the events of the last command that are not
yet delivered, the one now on `evt` first. -/
structure Clocked (tsw : Nat := Config.TSW) (rateW : Nat := Config.RATE_W) where
  regs : Regs tsw rateW
  pending : List (Event tsw)
deriving DecidableEq, Repr

section ports
variable {tsw rateW : Nat} (c : Clocked tsw rateW)

/-- `cmd_ready`: low while events of a command are still to be delivered (R246). -/
def Clocked.cmdReady : Bool := c.pending.isEmpty

/-- `evt_valid` (R90): an event word is on `evt` in this cycle. -/
def Clocked.evtValid : Bool := !c.pending.isEmpty

/-- The event in this cycle, if there is one. -/
def Clocked.shown : Option (Event tsw) := c.pending.head?

/-- `evt` (R98), where `evt_valid` is high; the port means nothing otherwise. -/
def Clocked.evt : Option (EventWord tsw) := c.shown.map Event.word

/-- Whether PWC takes the input of a clock edge: hardware reset always, a command when `cmd_ready` is high (R105). -/
def Clocked.takes (e : PortEdge tsw rateW) : Bool := e.rst || (c.cmdReady && e.cmdValid)

end ports

section timing
variable (p : Params)

/-- One rising edge of `clk`: `rst` first, which drops what is undelivered (spec/70_reset_and_hazards.md R233); while an event
is on `evt` no command is accepted and the next event follows (R101, R105); otherwise a presented command is accepted. -/
def clockEdge (c : Clocked p.tsw p.rateW) (e : PortEdge p.tsw p.rateW) : Clocked p.tsw p.rateW :=
  if e.rst then { regs := c.regs.hardwareReset, pending := [] }
  else match c.pending with
    | _ :: rest => { c with pending := rest }
    | [] => { regs := (p.tick e c.regs).1, pending := (p.tick e c.regs).2 }

/-- Many clock edges: the state at the end. -/
def clockRun : List (PortEdge p.tsw p.rateW) → Clocked p.tsw p.rateW → Clocked p.tsw p.rateW
  | [], c => c
  | e :: es, c => clockRun es (clockEdge p c e)

/-- The events the sink has seen by the end of those clock edges, in order: one per cycle (R101). -/
def clockShown : List (PortEdge p.tsw p.rateW) → Clocked p.tsw p.rateW → List (Event p.tsw)
  | [], _ => []
  | e :: es, c => c.shown.toList ++ clockShown es (clockEdge p c e)

/-- The clock edges among them whose input PWC took, in order. -/
def clockTaken : List (PortEdge p.tsw p.rateW) → Clocked p.tsw p.rateW → List (PortEdge p.tsw p.rateW)
  | [], _ => []
  | e :: es, c => (if c.takes e then [e] else []) ++ clockTaken es (clockEdge p c e)

end timing

end Sys2Proof.Machine
end

