-- ==== Sys2Proof/Machine/Sequence.lean ====
section
/-!
DEFINITION. The Bit sequence as the source describes it, a list of bits with their two timestamps (spec/10_state.md R25, R27;
spec/42_frame_assembler.md R170, R172, R176), and what it means that the accumulator registers represent such a list
(spec/92_eei_decisions.md D20). No meaning uses these: statements compare the registers with them.
-/

namespace Sys2Proof.Machine

/-- One entry of the Bit sequence, `(start_timestamp, end_timestamp, value)`. -/
structure SeqBit (tsw : Nat := Config.TSW) where
  value : Bool
  start : Timestamp tsw
  stop : Timestamp tsw
deriving DecidableEq, Repr

variable {tsw rateW : Nat}

/-- The number a run of bits in arrival order stands for: the first to arrive is the most significant
(spec/20_memory.md R64). -/
def seqNumber (bits : List (SeqBit tsw)) : Nat := bits.foldl (fun n b => 2 * n + b.value.toNat) 0

/-- Byte `k` of a window: bits `8k .. 8k+7` of the sequence (spec/20_memory.md R66). -/
def seqByte (bits : List (SeqBit tsw)) (k : Nat) : Nat := seqNumber ((bits.drop (8 * k)).take 8)

/-- The start timestamp of bit `i`, 0 where there is none. -/
def seqStart (bits : List (SeqBit tsw)) (i : Nat) : Timestamp tsw := (bits[i]?).elim 0 SeqBit.start

/-- The end timestamp of bit `i`, 0 where there is none. -/
def seqStop (bits : List (SeqBit tsw)) (i : Nat) : Timestamp tsw := (bits[i]?).elim 0 SeqBit.stop

/-- The BYTE event of byte `k` of a window: "the timestamp span of its 8 source bits" (spec/42_frame_assembler.md R173). -/
def seqByteEvent (bits : List (SeqBit tsw)) (k : Nat) : Event tsw :=
  ⟨.byte, BitVec.ofNat 8 (seqByte bits k), seqStart bits (8 * k), seqStop bits (8 * k + 7)⟩

/-- The verdict on a window, on the numbers its bytes stand for: `0xCA`, `0x34`, and bytes 2 and 3 that add up to 255
(spec/42_frame_assembler.md R174 to R176). -/
def seqVerdict (known : Byte → Bool) (bits : List (SeqBit tsw)) : EventKind :=
  if seqByte bits 0 = 0xCA ∧ seqByte bits 1 = 0x34 ∧ seqByte bits 2 + seqByte bits 3 = 255 then
    if known (BitVec.ofNat 8 (seqByte bits 2)) then .frameKnown else .frameUnknown
  else .frameInvalid

/-- The five events of a completed window (spec/42_frame_assembler.md R180). -/
def seqFrameEvents (known : Byte → Bool) (bits : List (SeqBit tsw)) : List (Event tsw) :=
  [seqByteEvent bits 0, seqByteEvent bits 1, seqByteEvent bits 2, seqByteEvent bits 3,
    ⟨seqVerdict known bits, BitVec.ofNat 8 (seqByte bits 2), seqStart bits 0, seqStop bits 31⟩]

/-- The accumulator registers hold exactly the sequence `bits`: its length, its values from bit 31 of `acc` downwards with
zeros below, and the eight timestamps kept of it (spec/10_state.md R25 to R27). -/
structure Regs.Represents {tsw rateW : Nat} (r : Regs tsw rateW) (bits : List (SeqBit tsw)) : Prop where
  length_eq : r.nbits.toNat = bits.length
  values : ∀ i, i < 32 → r.acc.getLsbD (31 - i) = (bits[i]?).elim false SeqBit.value
  starts : ∀ k, k < 4 → r.bstart.get k = seqStart bits (8 * k)
  stops : ∀ k, k < 4 → r.bend.get k = seqStop bits (8 * k + 7)

end Sys2Proof.Machine
end

