-- ==== Sys2Proof/Safety.lean ====
section
/-!
DEFINITION. What claims about runs of PWC are stated in: the invariants of spec/10_state.md R35 and
spec/41_edge_classifier.md R155, the windows of the match predicates in plain arithmetic, the host's obligation on
timestamps (spec/70_reset_and_hazards.md R242), and which registers an output can depend on
(spec/93_implementation_defined.md U14).
-/

namespace Sys2Proof.Machine

variable {tsw rateW : Nat}

/-- The session is alive: no SampleRateMissing so far. "A run that reaches `fault = 1` has failed"
(spec/60_exceptions.md R210). -/
abbrev State.Alive (s : State) : Prop := s.regs.fault = false

/-- The invariants of spec/10_state.md R35, items (a) to (i), and the reserved codes of `fcause` (R31), for a realisation that
supports the rates of `supported`. -/
structure Regs.InvFor (supported : Count rateW → Bool) (r : Regs tsw rateW) : Prop where
  /-- (a) -/
  nbits_le : r.nbits.toNat ≤ 31
  /-- (b), first part -/
  idle_iff_nref : r.state = .idle ↔ r.nref = 0
  /-- (b), second part -/
  start_nref : r.state = .start → r.nref = 1
  /-- (b), third part -/
  got_nref : r.state = .gotLow ∨ r.state = .gotHigh → r.nref = 2
  /-- (c) -/
  idle_clear : r.state = .idle → r.ref0 = 0 ∧ r.ref1 = 0 ∧ r.hiDistance = 0 ∧ r.loDistance = 0
  /-- (d) -/
  gotHigh_lo : r.state = .gotHigh → r.loDistance = 0
  /-- (e): the LUT is the profile of some rate -/
  profile_of_rate : ∃ rate : Count rateW, r.profile = profileOf rate.toNat rateW
  /-- (f): a valid profile is that of a nonzero supported rate -/
  valid_profile : r.profileValid = true →
    ∃ rate : Count rateW, rate ≠ 0 ∧ supported rate = true ∧ r.profile = profileOf rate.toNat rateW
  /-- (g) -/
  fault_iff_fcause : r.fault = true ↔ r.fcause = 1
  /-- R31: the codes 2 and 3 are never written -/
  fcause_code : r.fcause = 0 ∨ r.fcause = 1
  /-- (h): every position of `acc` not yet filled is zero -/
  acc_unfilled : ∀ i, i + r.nbits.toNat ≤ 31 → r.acc.getLsbD i = false
  /-- (i) -/
  idle_nbits : r.state = .idle → r.nbits = 0

/-- The invariants at the default of `RATE_SUPPORTED` (log entry 2). -/
abbrev Regs.Inv (r : Regs) : Prop := r.InvFor Config.RATE_SUPPORTED

/-- What spec/41_edge_classifier.md R155 says of every state between commands: the pair `(GOT_LOW, 1)` never occurs, and the
distance just measured is that between the two recorded edges. -/
structure Regs.Alternates (r : Regs tsw rateW) : Prop where
  gotLow_awaits_falling : r.state = .gotLow → r.awaitPol = false
  gotHigh_measured : r.state = .gotHigh → r.hiDistance = distance r.ref0 r.ref1
  gotLow_measured : r.state = .gotLow → r.loDistance = distance r.ref0 r.ref1

/-- Both windows of a pattern hold (spec/41_edge_classifier.md R148), as inequalities of natural numbers:
`e - m <= d <= e + m` of spec/00_scope.md R11 with the subtraction moved across. -/
abbrev Profile.Fits (P : Profile rateW) (p : Pattern) (hi lo : Timestamp tsw) : Prop :=
  ((P.lut p .hi).toNat ≤ hi.toNat + P.margin.toNat ∧ hi.toNat ≤ (P.lut p .hi).toNat + P.margin.toNat) ∧
    ((P.lut p .lo).toNat ≤ lo.toNat + P.margin.toNat ∧ lo.toNat ≤ (P.lut p .lo).toNat + P.margin.toNat)

/-- The bit value a pair of distances is read as, by the precedence of spec/41_edge_classifier.md R149: BIT1 before BIT0,
and neither where START fits. -/
abbrev Profile.ReadsBit (P : Profile rateW) (v : Bool) (hi lo : Timestamp tsw) : Prop :=
  ¬ P.Fits .start hi lo ∧ (if v then P.Fits .bit1 hi lo else ¬ P.Fits .bit1 hi lo ∧ P.Fits .bit0 hi lo)

/-- The record `profile(r)` of spec/40_setrate_timing_profile.md R121, as floors of natural numbers. -/
abbrev Profile.IsOf (P : Profile rateW) (r : Nat) : Prop :=
  P.startbitHi.toNat = r * 9 / 1000 ∧ P.startbitLo.toNat = r * 9 / 2000 ∧
    P.bit1Hi.toNat = r * 11 / 20000 ∧ P.bit1Lo.toNat = r * 17 / 10000 ∧
    P.bit0Hi = P.bit1Hi ∧ P.bit0Lo = P.bit1Hi ∧ P.margin.toNat = P.bit1Hi.toNat / 2

/-- No pattern fits (spec/41_edge_classifier.md R152). -/
abbrev Profile.ReadsNothing (P : Profile rateW) (hi lo : Timestamp tsw) : Prop :=
  ¬ P.Fits .start hi lo ∧ ¬ P.Fits .bit1 hi lo ∧ ¬ P.Fits .bit0 hi lo

/-- The host's obligation on two consecutive consumed edges at the true sample indices `a` and `b`
(spec/70_reset_and_hazards.md R242). -/
abbrev HostTimes (a b : Nat) (tsw : Nat := Config.TSW) : Prop := a ≤ b ∧ b - a < 2 ^ tsw

/-- Two register states no later event can tell apart: they agree on all that some rule reads before it is overwritten.
`nref` and `lo_distance` are never read; `ref0` not in `IDLE`; `ref1` and `hi_distance` only by a classification, which
needs a rising edge outside `IDLE` and `START` (spec/10_state.md R23, R24; U14). -/
structure Regs.SameOutlook (r r' : Regs tsw rateW) : Prop where
  state_eq : r.state = r'.state
  awaitPol_eq : r.awaitPol = r'.awaitPol
  acc_eq : r.acc = r'.acc
  nbits_eq : r.nbits = r'.nbits
  bstart_eq : r.bstart = r'.bstart
  bend_eq : r.bend = r'.bend
  profile_eq : r.profile = r'.profile
  profileValid_eq : r.profileValid = r'.profileValid
  fault_eq : r.fault = r'.fault
  fcause_eq : r.fcause = r'.fcause
  ref0_eq : r.state ≠ .idle → r.ref0 = r'.ref0
  pulse_eq : r.closesLow true = true → r.state ≠ .idle → r.awaitPol = true →
    r.ref1 = r'.ref1 ∧ r.hiDistance = r'.hiDistance

end Sys2Proof.Machine
end

