-- ==== Sys2Proof/Certificates/Slice0/Obligations.lean ====
section
/-!
DEFINITION. The statements for the provers. Each docstring names the rule of spec/ that the statement formalises.
-/

open Sys2Proof Sys2Proof.Machine

/-! ### Command words and event words -/

/-- Words written out in spec/30_encoding.md R92 to R94 and spec/95_test_vectors.md V7, V8, and what they decode to. -/
def Obligations.WrittenWordsDecode : Prop :=
  decode 0x000000000 = .nop ∧ decode 0x3FFFFFFFF = .nop ∧
  decode 0x4000F4240 = .setrate 1000000 ∧ decode 0x7000F4240 = .setrate 1000000 ∧
  decode 0x9000003E8 = .edge 1000 true ∧ decode 0x800002710 = .edge 10000 false ∧
  decode 0xB000038A4 = .edge 14500 true ∧ decode 0xC00000000 = .reserved3

/-- spec/30_encoding.md R104: every word decodes to exactly one command, by the two bits of `op` alone; the operands are
the plain low bits; and no word is illegal in the sense that PWC could not go on. The last clause rests, for the
reserved opcode (spec/43_nop_reserved.md R191), on log entry 7, and for SampleRateMissing, a next state, on log entry 14. -/
def Obligations.DecodingIsByOpcodeAlone : Prop :=
  ∀ w : CmdWord,
    (w.toNat / 2 ^ (Config.DATA_W + 2) = 0 → decode w = .nop) ∧
    (w.toNat / 2 ^ (Config.DATA_W + 2) = 1 → decode w = .setrate (BitVec.ofNat _ (w.toNat % 2 ^ Config.DATA_W))) ∧
    (w.toNat / 2 ^ (Config.DATA_W + 2) = 2 →
      decode w = .edge (BitVec.ofNat _ (w.toNat % 2 ^ Config.DATA_W)) (w.toNat / 2 ^ Config.DATA_W % 2 = 1)) ∧
    (w.toNat / 2 ^ (Config.DATA_W + 2) = 3 → decode w = .reserved3) ∧
    w.toNat / 2 ^ (Config.DATA_W + 2) < 4 ∧
    ∀ s : State, ∃ t, exec (decode w) s = .next t

/-- Every command is read back from its canonical word, with every operand (spec/30_encoding.md R92 to R95). -/
def Obligations.DecodeInvertsEncode : Prop := ∀ i : Instr, decode (encode i) = i

/-- spec/30_encoding.md R96: the value of `rsv` and of every bit a command does not use changes nothing. -/
def Obligations.IgnoredBitsChangeNothing : Prop :=
  ∀ (rsv rsv' lvl lvl' : Bool) (data data' : BitVec Config.DATA_W),
    decode (commandWord 0 rsv lvl data) = decode (commandWord 0 rsv' lvl' data') ∧
    decode (commandWord 1 rsv lvl data) = decode (commandWord 1 rsv' lvl' data) ∧
    decode (commandWord 2 rsv lvl data) = decode (commandWord 2 rsv' lvl data) ∧
    decode (commandWord 3 rsv lvl data) = decode (commandWord 3 rsv' lvl' data')

/-- The words a host should use are exactly the encodings of the legal commands (spec/30_encoding.md R96, U2, U3). -/
def Obligations.LegalWordsAreEncodings : Prop :=
  ∀ w : CmdWord, legalWord w = true ↔ ∃ i : Instr, i.wf = true ∧ w = encode i

/-- For every `TSW`: every event is read back from its word, every word of a produced kind is the word of the event read from
it, and the kinds 0 and 7 are no event (spec/30_encoding.md R98, R99). -/
def Obligations.EventWordsRoundTrip : Prop :=
  ∀ tsw : Nat,
    (∀ e : Event tsw, Event.ofWord e.word = some e) ∧
    (∀ (w : EventWord tsw) (e : Event tsw), Event.ofWord w = some e → e.word = w) ∧
    (∀ w : EventWord tsw, Event.ofWord w = none ↔
      (w.toNat / 2 ^ (8 + tsw + tsw) = 0 ∨ w.toNat / 2 ^ (8 + tsw + tsw) = 7))

/-- What each line of the notation stands for, every operand in range being the number the writer wrote
(spec/30_encoding.md R102); the pseudo-commands expand as R103 says, the operands of `PULSE` being the sums it names; and no
line stands for a word that a host should not use. That the sums must be in range is the model's choice (log entry 11). -/
def Obligations.NotationExpandsAsWritten : Prop :=
  assembleLine .nop = [.nop] ∧
  (∀ rate : Nat, rate < 2 ^ Config.RATE_W →
    ∃ q : Count, assembleLine (.setrate rate) = [.setrate q] ∧ q.toNat = rate) ∧
  (∀ (ts : Nat) (rising : Bool), ts < 2 ^ Config.TSW →
    ∃ a : Timestamp, assembleLine (.edge ts rising) = [.edge a rising] ∧ a.toNat = ts) ∧
  (∀ ts, assembleLine (.rise ts) = assembleLine (.edge ts true)) ∧
  (∀ ts, assembleLine (.fall ts) = assembleLine (.edge ts false)) ∧
  (∀ t h l : Nat, t + h + l < 2 ^ Config.TSW →
    ∃ a b : Timestamp, assembleLine (.pulse t h l) = [.edge a false, .edge b true] ∧
      a.toNat = t + h ∧ b.toNat = t + h + l) ∧
  ∀ line : AsmLine, ∀ i ∈ assembleLine line, legalWord (encode i) = true

/-! ### The step -/

/-- spec/30_encoding.md R105: a word presented with `rst = 0` and `cmd_valid = 1` is the command; the step is `exec` of the
command it decodes to, on the state with that clock edge taken from the port. The port as a stream, and one clock edge as one
step, are the model's choices (log entries 4, 6). -/
def Obligations.StepRunsAcceptedCommand : Prop :=
  ∀ (s : State) (e : PortEdge) (rest : List PortEdge),
    s.cmdPort = e :: rest → e.rst = false → e.cmdValid = true →
    step s = exec (decode e.cmd) { s with cmdPort := rest }

/-- A command put on the port is the next one to run, and leaves the rest of the port as it was (spec/30_encoding.md R105).
How a command is presented is the model's choice (log entry 5). -/
def Obligations.PresentedCommandRunsNext : Prop :=
  ∀ (i : Instr) (s : State), step (s.withFetchWord Config.CMD_W (encode i).toNat) = exec i s

/-- spec/70_reset_and_hazards.md R230, R232, R233: at a clock edge with `rst = 1` every register gets its reset value,
whatever the state and whatever is on the command port; no command is accepted and no event produced. -/
def Obligations.ResetEdgeRestoresEveryRegister : Prop :=
  ∀ (s : State) (e : PortEdge) (rest : List PortEdge), s.cmdPort = e :: rest → e.rst = true →
    step s = .next { regs := State.reset.regs, cmdPort := rest, events := s.events }

/-- spec/43_nop_reserved.md R192: a clock edge at which no command is accepted changes no register and produces no event;
when the host presents nothing more, PWC holds its state. The port as a stream that may end is the model's choice (log entries
4, 5). -/
def Obligations.NoCommandChangesNothing : Prop :=
  (∀ s : State, s.cmdPort = [] → step s = .next s) ∧
  (∀ (s : State) (e : PortEdge) (rest : List PortEdge), s.cmdPort = e :: rest → e.rst = false → e.cmdValid = false →
    step s = .next { s with cmdPort := rest })

/-- spec/93_implementation_defined.md section 1: nothing is stuck; every command completes, and so does every step. For the reserved opcode this rests on log entry 7. -/
def Obligations.EveryCommandCompletes : Prop :=
  (∀ (i : Instr) (s : State), ∃ t, exec i s = .next t) ∧ (∀ s : State, ∃ t, step s = .next t)

/-- spec/10_state.md R34, the whole table. -/
def Obligations.ResetValues : Prop :=
  State.reset.regs.state = .idle ∧ State.reset.regs.awaitPol = true ∧ State.reset.regs.nbits = 0 ∧
  State.reset.regs.acc = 0 ∧ State.reset.regs.bstart = ⟨0, 0, 0, 0⟩ ∧ State.reset.regs.bend = ⟨0, 0, 0, 0⟩ ∧
  State.reset.regs.ref0 = 0 ∧ State.reset.regs.ref1 = 0 ∧ State.reset.regs.nref = 0 ∧
  State.reset.regs.hiDistance = 0 ∧ State.reset.regs.loDistance = 0 ∧
  State.reset.regs.profile = ⟨0, 0, 0, 0, 0, 0, 0⟩ ∧ State.reset.regs.profileValid = false ∧
  State.reset.regs.fault = false ∧ State.reset.regs.fcause = 0

/-- spec/70_reset_and_hazards.md R231: what follows a hardware reset depends on nothing before it: on the same clock edges two
machines reach the same registers and produce the same further events. -/
def Obligations.ResetForgetsThePast : Prop :=
  ∀ (k : Nat) (s s' : State) (e : PortEdge) (rest : List PortEdge),
    e.rst = true → s.cmdPort = e :: rest → s'.cmdPort = e :: rest →
    ∃ (t t' : State) (evs : List Event),
      Host.Core.run core (k + 1) s = .next t ∧ Host.Core.run core (k + 1) s' = .next t' ∧
      t.regs = t'.regs ∧ t.cmdPort = t'.cmdPort ∧
      t.events = s.events ++ evs ∧ t'.events = s'.events ++ evs

/-! ### Invariants -/

/-- The reset state has the invariants of spec/10_state.md R35 and spec/41_edge_classifier.md R155. -/
def Obligations.ResetMeetsTheInvariants : Prop := State.reset.regs.Inv ∧ State.reset.regs.Alternates

/-- Every step keeps the invariants of spec/10_state.md R35; item (f) for the default of `RATE_SUPPORTED` (log entry 2). -/
def Obligations.StepKeepsRegisterInvariants : Prop :=
  ∀ s t : State, s.regs.Inv → step s = .next t → t.regs.Inv

/-- Every step keeps what spec/41_edge_classifier.md R155 says of the states between commands. -/
def Obligations.StepKeepsAlternation : Prop :=
  ∀ s t : State, s.regs.Alternates → step s = .next t → t.regs.Alternates

/-! ### SETRATE -/

/-- spec/40_setrate_timing_profile.md R120, R121 and D10: with `fault = 0` a nonzero supported rate fills the LUT with the
exact floors, sets `profile_valid` and touches nothing else, at all widths and whichever rates the realisation supports; and so
does `exec` for every nonzero rate, at the default of `RATE_SUPPORTED` (spec/00_scope.md R7; log entries 1, 2). -/
def Obligations.SetrateLoadsTheProfile : Prop :=
  (∀ (tsw rateW : Nat) (supported : Count rateW → Bool) (rate : Count rateW) (r : Regs tsw rateW),
    r.fault = false → rate ≠ 0 → supported rate = true →
    ∃ P : Profile rateW,
      setrate supported rate r = { r with profile := P, profileValid := true } ∧ P.IsOf rate.toNat) ∧
  (∀ (s : State) (rate : Count), s.regs.fault = false → rate ≠ 0 →
    ∃ P : Profile,
      exec (.setrate rate) s = .next { s with regs := { s.regs with profile := P, profileValid := true } } ∧
      P.IsOf rate.toNat)

/-- spec/40_setrate_timing_profile.md R122: rate 0, or a rate that the realisation does not support, whatever the predicate
is, writes zeros and `profile_valid <- 0`, and the next EDGE then raises SampleRateMissing; by default only 0 does so. -/
def Obligations.SetrateWithoutRateInvalidates : Prop :=
  (∀ (supported : Count → Bool) (rate : Count) (r : Regs), r.fault = false → rate = 0 ∨ supported rate = false →
    setrate supported rate r = { r with profile := ⟨0, 0, 0, 0, 0, 0, 0⟩, profileValid := false } ∧
    ∀ (known : Byte → Bool) (ts : Timestamp) (level : Bool),
      edge known ts level (setrate supported rate r) =
        ({ r with profile := ⟨0, 0, 0, 0, 0, 0, 0⟩, profileValid := false, fault := true, fcause := 1 }, [])) ∧
  (∀ s : State, s.regs.fault = false →
    exec (.setrate 0) s =
      .next { s with regs := { s.regs with profile := ⟨0, 0, 0, 0, 0, 0, 0⟩, profileValid := false } }) ∧
  (∀ rate : Count, Config.RATE_SUPPORTED rate = true ↔ rate ≠ 0)

/-- spec/40_setrate_timing_profile.md R128: of two SETRATEs in a row the later decides, whichever rates the realisation
supports; a repetition changes nothing more. That one SETRATE writes the whole profile is SetrateLoadsTheProfile. -/
def Obligations.LastSetrateWins : Prop :=
  (∀ (supported : Count → Bool) (a b : Count) (r : Regs),
    setrate supported b (setrate supported a r) = setrate supported b r) ∧
  ∀ (a b : Count) (s : State), ∃ t, exec (.setrate a) s = .next t ∧ exec (.setrate b) t = exec (.setrate b) s

/-- spec/40_setrate_timing_profile.md R127, for every `RATE_W` and every rate that fits its operand: the order of the entries,
the half of the margin, monotonicity, the bound by the rate, and the degenerate low rates. -/
def Obligations.ProfileFunctionProperties : Prop :=
  ∀ rateW : Nat,
    (∀ rate : Count rateW,
      (profileOf rate.toNat rateW).margin.toNat = (profileOf rate.toNat rateW).bit1Hi.toNat / 2 ∧
      (profileOf rate.toNat rateW).bit0Hi = (profileOf rate.toNat rateW).bit1Hi ∧
      (profileOf rate.toNat rateW).bit0Lo = (profileOf rate.toNat rateW).bit1Hi ∧
      (profileOf rate.toNat rateW).margin ≤ (profileOf rate.toNat rateW).bit1Hi ∧
      (profileOf rate.toNat rateW).bit1Hi ≤ (profileOf rate.toNat rateW).bit1Lo ∧
      (profileOf rate.toNat rateW).bit1Lo ≤ (profileOf rate.toNat rateW).startbitLo ∧
      (profileOf rate.toNat rateW).startbitLo ≤ (profileOf rate.toNat rateW).startbitHi ∧
      (profileOf rate.toNat rateW).startbitHi ≤ rate) ∧
    (∀ a b : Count rateW, a ≤ b →
      (∀ (p : Pattern) (ph : Phase), (profileOf a.toNat rateW).lut p ph ≤ (profileOf b.toNat rateW).lut p ph) ∧
      (profileOf a.toNat rateW).margin ≤ (profileOf b.toNat rateW).margin) ∧
    (∀ rate : Count rateW,
      (rate.toNat ≤ 111 → profileOf rate.toNat rateW = ⟨0, 0, 0, 0, 0, 0, 0⟩) ∧
      (rate.toNat ≤ 1818 → (profileOf rate.toNat rateW).bit1Hi = 0) ∧
      (rate.toNat ≤ 3636 → (profileOf rate.toNat rateW).margin = 0))

/-- spec/10_state.md R28, R30: the LUT, `margin` and `profile_valid` change only by a hardware reset or an accepted SETRATE. -/
def Obligations.ProfileChangesOnlyBySetrate : Prop :=
  ∀ s t : State, step s = .next t →
    (t.regs.profile ≠ s.regs.profile ∨ t.regs.profileValid ≠ s.regs.profileValid) →
    ∃ (e : PortEdge) (rest : List PortEdge), s.cmdPort = e :: rest ∧
      (e.rst = true ∨ (s.regs.fault = false ∧ e.cmdValid = true ∧ ∃ rate, decode e.cmd = .setrate rate))

/-! ### The fault -/

/-- spec/41_edge_classifier.md R142: without a profile an EDGE of either level raises SampleRateMissing and changes nothing
else. -/
def Obligations.EdgeWithoutProfileRaisesFault : Prop :=
  ∀ (s : State) (ts : Timestamp) (level : Bool), s.regs.fault = false → s.regs.profileValid = false →
    exec (.edge ts level) s = .next { s with regs := { s.regs with fault := true, fcause := 1 } }

/-- spec/60_exceptions.md R210 (R125, R141): while `fault = 1` every command is discarded: no register
changes and no event is produced. -/
def Obligations.HaltedBlockDiscardsCommands : Prop :=
  ∀ (i : Instr) (s : State), s.regs.fault = true → exec i s = .next s

/-- spec/60_exceptions.md R201: a step raises the fault exactly when it accepts an EDGE with `fault = 0` and
`profile_valid = 0`; the events of earlier commands stay as they are (R209). -/
def Obligations.FaultArisesOnlyFromEdgeWithoutProfile : Prop :=
  ∀ s t : State, step s = .next t → s.regs.fault = false →
    (t.regs.fault = true ↔
      s.regs.profileValid = false ∧
      ∃ (e : PortEdge) (rest : List PortEdge) (ts : Timestamp) (level : Bool),
        s.cmdPort = e :: rest ∧ e.rst = false ∧ e.cmdValid = true ∧ decode e.cmd = .edge ts level) ∧
    (t.regs.fault = true → t.events = s.events)

/-- spec/60_exceptions.md R211: only a hardware reset ends the fault, and it restores every register. -/
def Obligations.FaultEndsOnlyByReset : Prop :=
  ∀ s t : State, step s = .next t → s.regs.fault = true → t.regs.fault = false →
    t.regs = State.reset.regs ∧
    ∃ (e : PortEdge) (rest : List PortEdge), s.cmdPort = e :: rest ∧ e.rst = true

/-! ### NOP and the reserved opcode -/

/-- spec/43_nop_reserved.md R190: NOP is the identity on every state, faulted or not, with or without a profile. -/
def Obligations.NopIsTheIdentity : Prop := ∀ s : State, exec .nop s = .next s

/-- spec/43_nop_reserved.md R191: PWC accepts the reserved opcode and changes nothing. A legal program does not hold it
(U2; log entry 7). -/
def Obligations.ReservedOpcodeChangesNothing : Prop :=
  (∀ s : State, exec .reserved3 s = .next s) ∧ Instr.reserved3.wf = false

/-! ### EDGE: the gates and the states -/

/-- spec/41_edge_classifier.md R143: an edge whose level is not the awaited polarity is dropped. -/
def Obligations.DroppedEdgeChangesNothing : Prop :=
  ∀ (s : State) (ts : Timestamp) (level : Bool), s.regs.fault = false → s.regs.profileValid = true →
    level ≠ s.regs.awaitPol → exec (.edge ts level) s = .next s

/-- spec/41_edge_classifier.md R144: in `IDLE` a consumed edge becomes the first reference, and nothing is measured. -/
def Obligations.IdleArmRecordsFirstReference : Prop :=
  ∀ (s : State) (ts : Timestamp) (level : Bool), s.regs.fault = false → s.regs.profileValid = true →
    level = s.regs.awaitPol → s.regs.state = .idle →
    exec (.edge ts level) s =
      .next { s with regs := { s.regs with ref0 := ts, nref := 1, state := .start, awaitPol := !s.regs.awaitPol } }

/-- spec/41_edge_classifier.md R145, R146 second case, R153: a falling edge, or an edge in `START`, stores the interval in
`hi_distance` and clears `lo_distance`; the edge is recorded and the awaited polarity flipped; no event. -/
def Obligations.HighPhaseIsStored : Prop :=
  ∀ (s : State) (ts : Timestamp) (level : Bool), s.regs.fault = false → s.regs.profileValid = true →
    level = s.regs.awaitPol → s.regs.state ≠ .idle → (level = false ∨ s.regs.state = .start) →
    s.regs.nbits.toNat ≤ 31 →
    exec (.edge ts level) s =
      .next { s with regs := { s.regs with
        hiDistance := ts - s.regs.ref0, loDistance := 0, state := .gotHigh
        ref1 := s.regs.ref0, ref0 := ts, nref := 2, awaitPol := !s.regs.awaitPol } }

/-- spec/41_edge_classifier.md R152: a rising edge whose pair of distances fits no pattern produces no event and no bit; the
edge is recorded like any other. -/
def Obligations.UnmatchedPulseIsDropped : Prop :=
  ∀ (s : State) (ts : Timestamp), s.regs.fault = false → s.regs.profileValid = true →
    s.regs.awaitPol = true → s.regs.state ≠ .idle → s.regs.state ≠ .start → s.regs.nbits.toNat ≤ 31 →
    s.regs.profile.ReadsNothing s.regs.hiDistance (ts - s.regs.ref0) →
    exec (.edge ts true) s =
      .next { s with regs := { s.regs with
        loDistance := ts - s.regs.ref0, state := .gotLow
        ref1 := s.regs.ref0, ref0 := ts, nref := 2, awaitPol := false } }

/-- spec/41_edge_classifier.md R150, R156: a pair that fits START produces one Start marker, with the span of the pulse pair,
and leaves the accumulator alone. -/
def Obligations.StartMarkerLeavesTheAccumulator : Prop :=
  ∀ (s : State) (ts : Timestamp), s.regs.fault = false → s.regs.profileValid = true →
    s.regs.awaitPol = true → s.regs.state ≠ .idle → s.regs.state ≠ .start → s.regs.nbits.toNat ≤ 31 →
    s.regs.profile.Fits .start s.regs.hiDistance (ts - s.regs.ref0) →
    exec (.edge ts true) s =
      .next { s with
        regs := { s.regs with
          loDistance := ts - s.regs.ref0, state := .gotLow
          ref1 := s.regs.ref0, ref0 := ts, nref := 2, awaitPol := false }
        events := s.events ++ [⟨.start, 0, s.regs.ref1, ts⟩] }

/-- spec/41_edge_classifier.md R149, R151, R156 and spec/42_frame_assembler.md R170: a bit that does not complete a window goes
to its position of `acc`, to the span registers at a byte boundary, and to one BIT event; `nbits` counts it. -/
def Obligations.AcceptedBitIsStored : Prop :=
  ∀ (s : State) (ts : Timestamp) (v : Bool), s.regs.fault = false → s.regs.profileValid = true →
    s.regs.awaitPol = true → s.regs.state ≠ .idle → s.regs.state ≠ .start → s.regs.nbits.toNat ≤ 30 →
    s.regs.profile.ReadsBit v s.regs.hiDistance (ts - s.regs.ref0) →
    ∃ (acc : BitVec 32) (nbits : BitVec 6) (bstart bend : Spans),
      exec (.edge ts true) s =
        .next { s with
          regs := { s.regs with
            loDistance := ts - s.regs.ref0, state := .gotLow
            ref1 := s.regs.ref0, ref0 := ts, nref := 2, awaitPol := false
            acc := acc, nbits := nbits, bstart := bstart, bend := bend }
          events := s.events ++ [⟨.bit, if v then 1 else 0, s.regs.ref1, ts⟩] } ∧
      nbits.toNat = s.regs.nbits.toNat + 1 ∧
      (∀ i, i < 32 → acc.getLsbD i = if i = 31 - s.regs.nbits.toNat then v else s.regs.acc.getLsbD i) ∧
      (∀ k, k < 4 → bstart.get k = if s.regs.nbits.toNat = 8 * k then s.regs.ref1 else s.regs.bstart.get k) ∧
      (∀ k, k < 4 → bend.get k = if s.regs.nbits.toNat = 8 * k + 7 then ts else s.regs.bend.get k)

/-- spec/41_edge_classifier.md R154 and spec/42_frame_assembler.md R171 to R173, R178 to R180: the thirty-second bit completes the
window: six events in order, then the frame reset, which leaves `await_pol`, the profile and the fault. -/
def Obligations.ThirtySecondBitCompletesTheFrame : Prop :=
  ∀ (s : State) (ts : Timestamp) (v : Bool) (acc : BitVec 32), s.regs.fault = false → s.regs.profileValid = true →
    s.regs.awaitPol = true → s.regs.state ≠ .idle → s.regs.state ≠ .start → s.regs.nbits = 31 →
    s.regs.profile.ReadsBit v s.regs.hiDistance (ts - s.regs.ref0) →
    acc.getLsbD 0 = v → (∀ i, 0 < i → acc.getLsbD i = s.regs.acc.getLsbD i) →
    exec (.edge ts true) s =
      .next { s with
        regs := { s.regs with
          acc := 0, nbits := 0, bstart := ⟨0, 0, 0, 0⟩, bend := ⟨0, 0, 0, 0⟩
          ref0 := 0, ref1 := 0, nref := 0, hiDistance := 0, loDistance := 0, state := .idle, awaitPol := false }
        events := s.events ++
          [⟨.bit, if v then 1 else 0, s.regs.ref1, ts⟩,
           ⟨.byte, acc.extractLsb' 24 8, s.regs.bstart.b0, s.regs.bend.b0⟩,
           ⟨.byte, acc.extractLsb' 16 8, s.regs.bstart.b1, s.regs.bend.b1⟩,
           ⟨.byte, acc.extractLsb' 8 8, s.regs.bstart.b2, s.regs.bend.b2⟩,
           ⟨.byte, acc.extractLsb' 0 8, s.regs.bstart.b3, ts⟩,
           ⟨verdict Config.CMD_KNOWN acc, acc.extractLsb' 8 8, s.regs.bstart.b0, ts⟩] }

/-- spec/41_edge_classifier.md R155, the eight rows of the table: the next state for a consumed edge; a thirty-second bit, and
nothing else, replaces it by `IDLE`. -/
def Obligations.NextStateTable : Prop :=
  ∀ (tsw rateW : Nat) (known : Byte → Bool) (ts : Timestamp tsw) (level : Bool) (r : Regs tsw rateW),
    r.consumes level = true → r.nbits.toNat ≤ 31 →
    (edge known ts level r).1.state =
      if (edge known ts level r).2.length = 6 then .idle
      else match r.state, level with
        | .idle, _ => .start
        | .start, _ => .gotHigh
        | .gotHigh, true => .gotLow
        | .gotHigh, false => .gotHigh
        | .gotLow, false => .gotHigh
        | .gotLow, true => .gotLow

/-- spec/10_state.md R22: `await_pol` changes at a hardware reset or by a consumed EDGE, and every consumed EDGE inverts it. -/
def Obligations.AwaitedPolarityFlipsWithConsumedEdges : Prop :=
  (∀ (tsw rateW : Nat) (known : Byte → Bool) (ts : Timestamp tsw) (level : Bool) (r : Regs tsw rateW),
    (edge known ts level r).1.awaitPol = (if r.consumes level then !r.awaitPol else r.awaitPol)) ∧
  (∀ s t : State, step s = .next t → t.regs.awaitPol ≠ s.regs.awaitPol →
    ∃ (e : PortEdge) (rest : List PortEdge), s.cmdPort = e :: rest ∧
      (e.rst = true ∨ ∃ (ts : Timestamp) (level : Bool),
        e.cmdValid = true ∧ decode e.cmd = .edge ts level ∧ s.regs.consumes level = true))

/-- spec/41_edge_classifier.md R147, R155, R156: at every classification, whatever the pair is read as, the state was
`GOT_HIGH`, the pair judged is the two intervals between three consecutive consumed edges, `ref1`, `ref0` and `ts`, and the span
from `ref1` is their sum; the event of a bit or a Start marker has that span, and an unmatched pair has no event. -/
def Obligations.BitIsReadFromThreeEdges : Prop :=
  ∀ (s : State) (ts : Timestamp), s.regs.Alternates → s.regs.fault = false → s.regs.profileValid = true →
    s.regs.awaitPol = true → s.regs.state ≠ .idle → s.regs.state ≠ .start →
    (s.regs.state = .gotHigh ∧ s.regs.hiDistance = s.regs.ref0 - s.regs.ref1 ∧
      ts - s.regs.ref1 = s.regs.hiDistance + (ts - s.regs.ref0)) ∧
    (∀ v : Bool, s.regs.profile.ReadsBit v (s.regs.ref0 - s.regs.ref1) (ts - s.regs.ref0) →
      ∃ (t : State) (more : List Event), exec (.edge ts true) s = .next t ∧
        t.events = s.events ++ ⟨.bit, if v then 1 else 0, s.regs.ref1, ts⟩ :: more) ∧
    (s.regs.nbits.toNat ≤ 31 → s.regs.profile.Fits .start (s.regs.ref0 - s.regs.ref1) (ts - s.regs.ref0) →
      ∃ t : State, exec (.edge ts true) s = .next t ∧ t.events = s.events ++ [⟨.start, 0, s.regs.ref1, ts⟩]) ∧
    (s.regs.nbits.toNat ≤ 31 → s.regs.profile.ReadsNothing (s.regs.ref0 - s.regs.ref1) (ts - s.regs.ref0) →
      ∃ t : State, exec (.edge ts true) s = .next t ∧ t.events = s.events)

/-- spec/41_edge_classifier.md R157: after a frame reset the classifier takes a falling edge as its first reference and skips one
rising edge without classifying; the next falling edge leaves it with the true high interval. -/
def Obligations.FirstPulseAfterFrameIsSkipped : Prop :=
  ∀ (s : State) (ts₁ ts₂ ts₃ : Timestamp), s.regs.Inv → s.regs.fault = false → s.regs.profileValid = true →
    s.regs.state = .idle → s.regs.awaitPol = false →
    ∃ t₁ t₂ : State,
      exec (.edge ts₁ false) s = .next t₁ ∧ exec (.edge ts₂ true) t₁ = .next t₂ ∧
      t₂.regs.state = .gotHigh ∧ t₂.regs.hiDistance = ts₂ - ts₁ ∧ t₂.regs.awaitPol = false ∧
      exec (.edge ts₃ false) t₂ =
        .next { s with regs := { s.regs with
          state := .gotHigh, awaitPol := true, hiDistance := ts₃ - ts₂, loDistance := 0
          ref1 := ts₂, ref0 := ts₃, nref := 2 } }

/-- spec/70_reset_and_hazards.md R242, for every `TSW`: under the host's obligation the measured distance is the true one,
wrap-around of the timestamps included. -/
def Obligations.DistanceIsExactUnderHostObligation : Prop :=
  ∀ tsw a b : Nat, HostTimes a b tsw → (distance (BitVec.ofNat tsw b) (BitVec.ofNat tsw a)).toNat = b - a

/-- spec/00_scope.md R11: the closed interval over the mathematical integers, inclusive at both ends. -/
def Obligations.RangeIsTheClosedInterval : Prop :=
  (∀ d e m : Nat, inRange d e m = true ↔ (e : Int) - m ≤ d ∧ (d : Int) ≤ e + m) ∧
  (∀ e m : Nat, m ≤ e → inRange (e - m) e m = true ∧ inRange (e + m) e m = true) ∧
  (∀ e m : Nat, m < e → inRange (e - m - 1) e m = false) ∧
  inRange 275 550 275 = true ∧ inRange 825 550 275 = true ∧ inRange 274 550 275 = false ∧ inRange 826 550 275 = false

/-- spec/20_memory.md R61, R62: the LUT index map; the indices 6 and 7 are never generated. -/
def Obligations.LutIndexMap : Prop :=
  (∀ (P : Profile) (p : Pattern) (ph : Phase), P.entry (lutIndex p ph) = some (P.lut p ph)) ∧
  (∀ (p : Pattern) (ph : Phase), lutIndex p ph ≠ 6 ∧ lutIndex p ph ≠ 7) ∧
  (∀ i : Fin 6, ∃ (p : Pattern) (ph : Phase), (lutIndex p ph).toNat = i.val)

/-- spec/70_reset_and_hazards.md R244: from 589 samples per second upwards no pulse pair fits two patterns; for 112 to 588 BIT1
and BIT0 are the same pattern, so no pair is read as a 0; for 1 to 111 only the pair `(0, 0)` fits anything, and fits all. -/
def Obligations.PatternWindowsByRate : Prop :=
  ∀ (rate : Count) (hi lo : Timestamp),
    (589 ≤ rate → ∀ p q : Pattern,
      (profileOf rate.toNat).Fits p hi lo → (profileOf rate.toNat).Fits q hi lo → p = q) ∧
    (112 ≤ rate → rate ≤ 588 →
      ((profileOf rate.toNat).Fits .bit0 hi lo ↔ (profileOf rate.toNat).Fits .bit1 hi lo) ∧
      ¬ (profileOf rate.toNat).ReadsBit false hi lo) ∧
    (1 ≤ rate → rate ≤ 111 → ∀ p : Pattern, (profileOf rate.toNat).Fits p hi lo ↔ hi = 0 ∧ lo = 0)

/-! ### Frames and events -/

/-- spec/42_frame_assembler.md R174: the header check, in both forms the rule gives. -/
def Obligations.HeaderCheckIsUpperHalf : Prop :=
  ∀ acc : BitVec 32,
    (hdrOk acc = true ↔ acc.extractLsb' 24 8 = 0xCA ∧ acc.extractLsb' 16 8 = 0x34) ∧
    (hdrOk acc = true ↔ acc.extractLsb' 16 16 = 0xCA34)

/-- spec/42_frame_assembler.md R175: the checksum check in the three forms the rule gives, its worked example, and its symmetry in
the two bytes. -/
def Obligations.ChecksumIsTheComplement : Prop :=
  (∀ acc : BitVec 32,
    (sumOk acc = true ↔ acc.extractLsb' 8 8 = acc.extractLsb' 0 8 ^^^ 0xFF) ∧
    (sumOk acc = true ↔ (acc.extractLsb' 8 8).toNat + (acc.extractLsb' 0 8).toNat = 255) ∧
    (sumOk acc = true ↔ acc.extractLsb' 8 8 ^^^ acc.extractLsb' 0 8 = 0xFF) ∧
    (∀ acc' : BitVec 32, acc'.extractLsb' 8 8 = acc.extractLsb' 0 8 → acc'.extractLsb' 0 8 = acc.extractLsb' 8 8 →
      sumOk acc' = sumOk acc)) ∧
  sumOk 0xCA3412ED = true ∧ sumOk 0xCA3412EC = false

/-- spec/42_frame_assembler.md R176, the table of the verdict, for every command table; R177: the table is asked only when
both checks pass, and for `byte[2]`. -/
def Obligations.VerdictTable : Prop :=
  ∀ (known : Byte → Bool) (acc : BitVec 32),
    (hdrOk acc = false → verdict known acc = .frameInvalid) ∧
    (hdrOk acc = true → sumOk acc = false → verdict known acc = .frameInvalid) ∧
    (hdrOk acc = true → sumOk acc = true → known (acc.extractLsb' 8 8) = false → verdict known acc = .frameUnknown) ∧
    (hdrOk acc = true → sumOk acc = true → known (acc.extractLsb' 8 8) = true → verdict known acc = .frameKnown) ∧
    (∀ code, tabAddr acc = some code ↔ hdrOk acc = true ∧ sumOk acc = true ∧ code = acc.extractLsb' 8 8)

/-- spec/42_frame_assembler.md R179: what the frame reset clears and what it does not write, on every state. -/
def Obligations.FrameResetClears : Prop :=
  ∀ r : Regs,
    r.frameReset = { r with
      acc := 0, nbits := 0, bstart := ⟨0, 0, 0, 0⟩, bend := ⟨0, 0, 0, 0⟩
      ref0 := 0, ref1 := 0, nref := 0, hiDistance := 0, loDistance := 0, state := .idle }

/-- The command table cannot change the registers, and changes the events only in the kind of a frame event whose checks
passed, by its answer on the code that the event carries (spec/42_frame_assembler.md R177; U10). -/
def Obligations.CommandTableShowsOnlyInTheVerdict : Prop :=
  ∀ (tsw rateW : Nat) (known known' : Byte → Bool) (ts : Timestamp tsw) (level : Bool) (r : Regs tsw rateW),
    (edge known ts level r).1 = (edge known' ts level r).1 ∧
    ((edge known ts level r).2 = (edge known' ts level r).2 ∨
      ∃ (pre : List (Event tsw)) (code : Byte) (a b : Timestamp tsw), known code ≠ known' code ∧
        (edge known ts level r).2 = pre ++ [⟨if known code then .frameKnown else .frameUnknown, code, a, b⟩] ∧
        (edge known' ts level r).2 = pre ++ [⟨if known' code then .frameKnown else .frameUnknown, code, a, b⟩])

/-- spec/30_encoding.md R101: what a step adds to the events has one of four shapes, and only an accepted EDGE adds any. -/
def Obligations.EventsPerCommand : Prop :=
  ∀ s t : State, s.regs.Inv → step s = .next t →
    ∃ evs : List Event, t.events = s.events ++ evs ∧
      (evs.map Event.kind = [] ∨ evs.map Event.kind = [.start] ∨ evs.map Event.kind = [.bit] ∨
        ∃ k : EventKind, (k = .frameInvalid ∨ k = .frameUnknown ∨ k = .frameKnown) ∧
          evs.map Event.kind = [.bit, .byte, .byte, .byte, .byte, k]) ∧
      (evs ≠ [] → ∃ (e : PortEdge) (rest : List PortEdge) (ts : Timestamp) (level : Bool),
        s.cmdPort = e :: rest ∧ e.rst = false ∧ e.cmdValid = true ∧ decode e.cmd = .edge ts level)

/-- The accumulator registers refine the source's Bit sequence (spec/10_state.md R25 to R27, spec/20_memory.md R64 to R66,
spec/42_frame_assembler.md R170 to R180, D20): an EDGE leaves the represented sequence, or appends one bit and says so in a BIT
event; with thirty-two bits it produces the events of the packed list and the sequence is empty. -/
def Obligations.AccumulatorRefinesBitSequence : Prop :=
  ∀ (tsw rateW : Nat) (known : Byte → Bool) (ts : Timestamp tsw) (level : Bool) (r : Regs tsw rateW)
    (bits : List (SeqBit tsw)), r.nbits.toNat ≤ 31 → r.Represents bits →
    ((edge known ts level r).1.Represents bits ∧
      ((edge known ts level r).2 = [] ∨ (edge known ts level r).2 = [startEvent r.ref1 ts])) ∨
    ∃ b : SeqBit tsw, b.start = r.ref1 ∧ b.stop = ts ∧
      ((bits.length < 31 ∧ (edge known ts level r).1.Represents (bits ++ [b]) ∧
          (edge known ts level r).2 = [bitEvent b.value b.start b.stop]) ∨
        (bits.length = 31 ∧ (edge known ts level r).1.Represents [] ∧
          (edge known ts level r).2 = bitEvent b.value b.start b.stop :: seqFrameEvents known (bits ++ [b])))

/-- spec/10_state.md R23, R24 and U14: no event, now or in any later step, depends on a register that the rules call not
meaningful. -/
def Obligations.UnreadRegistersNeverShow : Prop :=
  ∀ (k : Nat) (s s' : State), s.regs.SameOutlook s'.regs → s.cmdPort = s'.cmdPort →
    ∃ (t t' : State) (evs : List Event),
      Host.Core.run core k s = .next t ∧ Host.Core.run core k s' = .next t' ∧
      t.events = s.events ++ evs ∧ t'.events = s'.events ++ evs ∧
      t.regs.SameOutlook t'.regs ∧ t.regs.statusPorts = t'.regs.statusPorts

/-- The reference timing (spec/70_reset_and_hazards.md R246; log entry 10) changes nothing but the time, at any parameters. The
clock edges whose input PWC took, resets among them, run one after another, give the registers of the clocked view. Without a
reset their events, after those not yet delivered at the start, are those the sink has seen followed by those still to be
delivered. A reset restores the registers and loses what is not delivered, and shows nothing in its place (R233). -/
def Obligations.ClockedPortsRefineTheSteps : Prop :=
  ∀ (p : Params) (edges : List (PortEdge p.tsw p.rateW)) (c : Clocked p.tsw p.rateW),
    (clockRun p edges c).regs = (p.run (clockTaken p edges c) c.regs).1 ∧
    ((∀ e ∈ edges, e.rst = false) →
      c.pending ++ (p.run (clockTaken p edges c) c.regs).2 = clockShown p edges c ++ (clockRun p edges c).pending) ∧
    (clockShown p edges c ++ (clockRun p edges c).pending).Sublist
      (c.pending ++ (p.run (clockTaken p edges c) c.regs).2) ∧
    ∀ e : PortEdge p.tsw p.rateW, e.rst = true → clockEdge p c e = { regs := Regs.reset, pending := [] }

/-- spec/10_state.md R33, R21, R22, R31: the status ports carry the registers of the same names in the codes of the spec. -/
def Obligations.StatusPortsCarryTheRegisters : Prop :=
  (∀ r : Regs,
    r.statusPorts.nbits = r.nbits ∧ r.statusPorts.fcause = r.fcause ∧
    (r.statusPorts.awaitPol = 1 ↔ r.awaitPol = true) ∧ (r.statusPorts.profileValid = 1 ↔ r.profileValid = true) ∧
    (r.statusPorts.fault = 1 ↔ r.fault = true) ∧
    (r.statusPorts.state = 0 ↔ r.state = .idle) ∧ (r.statusPorts.state = 1 ↔ r.state = .start) ∧
    (r.statusPorts.state = 2 ↔ r.state = .gotLow) ∧ (r.statusPorts.state = 3 ↔ r.state = .gotHigh)) ∧
  State.reset.regs.statusPorts = ⟨1, 0, 0, 0, 0, 0⟩

/-! ### PWC at any parameters -/

/-- spec/00_scope.md R7: the fixed names of the model are the realisation with the spec's default widths, every nonzero rate
supported and the open command table (log entries 1 to 3): decoding, encoding, each command, each clock edge, and any number of
clock edges. The port and the events as fields of the state are the model's choice (log entry 4). -/
def Obligations.FixedNamesAreTheDefaultRealisation : Prop :=
  (Config.params.wf = true ∧ Config.params.tsw = 32 ∧ Config.params.rateW = 32 ∧
    ∀ rate : Count, Config.params.rateSupported rate = true ↔ rate ≠ 0) ∧
  (∀ w : CmdWord, (decode w).command = decodeCommand w) ∧
  (∀ i : Instr, encode i = i.command.word ∧ i.command.instr = i) ∧
  (∀ (i : Instr) (s : State), exec i s = .next (s.commit (Config.params.accept i.command s.regs))) ∧
  (∀ (s : State) (e : PortEdge) (rest : List PortEdge), s.cmdPort = e :: rest →
    step s =
      .next
        { regs := (Config.params.tick e s.regs).1
          cmdPort := rest
          events := s.events ++ (Config.params.tick e s.regs).2 }) ∧
  ∀ (edges : List PortEdge) (r : Regs) (events : List Event),
    Host.Core.run core edges.length { regs := r, cmdPort := edges, events := events } =
      .next { regs := (Config.params.run edges r).1, cmdPort := [], events := events ++ (Config.params.run edges r).2 }

/-- spec/30_encoding.md R91 to R96 at any widths: every command is read back from its word, whichever of `TSW` and `RATE_W` is
larger; that word is one a host should use exactly when the command is legal; and the operands of a word that reads as a command
are its plain low bits and the bit above `data`. -/
def Obligations.EveryWidthDecodesWhatItEncodes : Prop :=
  ∀ tsw rateW : Nat,
    (∀ c : Command tsw rateW, decodeCommand c.word = c ∧ legalWord c.word = c.wf) ∧
    (∀ (w : CmdWord tsw rateW) (rate : Count rateW), decodeCommand w = .setrate rate →
      rate.toNat = w.toNat % 2 ^ rateW) ∧
    ∀ (w : CmdWord tsw rateW) (ts : Timestamp tsw) (level : Bool), decodeCommand w = .edge ts level →
      ts.toNat = w.toNat % 2 ^ tsw ∧ (level = true ↔ w.toNat / 2 ^ max tsw rateW % 2 = 1)

/-- spec/10_state.md R35 and spec/41_edge_classifier.md R155 at any parameters: the reset state has the invariants, and any
number of clock edges keep them, from every state that has them. -/
def Obligations.EveryRealisationKeepsTheInvariants : Prop :=
  ∀ p : Params,
    ((Regs.reset : Regs p.tsw p.rateW).InvFor p.rateSupported ∧ (Regs.reset : Regs p.tsw p.rateW).Alternates) ∧
    ∀ (edges : List (PortEdge p.tsw p.rateW)) (r : Regs p.tsw p.rateW),
      (r.InvFor p.rateSupported → (p.run edges r).1.InvFor p.rateSupported) ∧
      (r.Alternates → (p.run edges r).1.Alternates)

/-- The gates and the commands that measure nothing, at any parameters: spec/43_nop_reserved.md R190 and R191 (log entry 7),
spec/60_exceptions.md R210, spec/40_setrate_timing_profile.md R120 to R122, spec/41_edge_classifier.md R142 to R144. -/
def Obligations.EveryRealisationHasTheGates : Prop :=
  ∀ (p : Params) (r : Regs p.tsw p.rateW),
    (p.accept .nop r = (r, []) ∧ p.accept .reserved3 r = (r, [])) ∧
    (r.fault = true → ∀ c : Command p.tsw p.rateW, p.accept c r = (r, [])) ∧
    (r.fault = false → ∀ rate : Count p.rateW, rate = 0 ∨ p.rateSupported rate = false →
      p.accept (.setrate rate) r = ({ r with profile := ⟨0, 0, 0, 0, 0, 0, 0⟩, profileValid := false }, [])) ∧
    (r.fault = false → ∀ rate : Count p.rateW, rate ≠ 0 → p.rateSupported rate = true →
      ∃ P : Profile p.rateW,
        p.accept (.setrate rate) r = ({ r with profile := P, profileValid := true }, []) ∧ P.IsOf rate.toNat) ∧
    ∀ (ts : Timestamp p.tsw) (level : Bool), r.fault = false →
      (r.profileValid = false → p.accept (.edge ts level) r = ({ r with fault := true, fcause := 1 }, [])) ∧
      (r.profileValid = true → level ≠ r.awaitPol → p.accept (.edge ts level) r = (r, [])) ∧
      (r.profileValid = true → level = r.awaitPol → r.state = .idle →
        p.accept (.edge ts level) r = ({ r with ref0 := ts, nref := 1, state := .start, awaitPol := !r.awaitPol }, []))
end

