-- ==== Sys2Proof/Laws/Decode.lean ====
section
/-!
SUPPORT. The fields of a composed command word and of a composed event word, and the words composed of their fields.
-/

namespace Sys2Proof

section fields
variable {dataW : Nat} (op : BitVec 2) (rsv lvl : Bool) (data : BitVec dataW)

/-- Bit by bit, a composed command word. -/
theorem commandWord_getLsbD (i : Nat) :
    (commandWord op rsv lvl data).getLsbD i =
      if i < dataW then data.getLsbD i
      else if i = dataW then lvl
      else if i = dataW + 1 then rsv
      else op.getLsbD (i - dataW - 2) := by
  unfold commandWord
  rw [BitVec.getLsbD_append, BitVec.getLsbD_append, BitVec.getLsbD_append]
  by_cases h₁ : i < dataW
  · simp only [h₁, if_true]
  by_cases h₂ : i = dataW
  · subst h₂
    simp
  by_cases h₃ : i = dataW + 1
  · subst h₃
    simp
  · rw [if_neg h₁, if_neg (by omega), if_neg (by omega), if_neg h₁, if_neg h₂, if_neg h₃]
    exact congrArg _ (by omega)

@[simp] theorem opField_commandWord : opField (commandWord op rsv lvl data) = op := by
  apply BitVec.eq_of_getLsbD_eq
  intro i hi
  rw [opField, BitVec.getLsbD_extractLsb', commandWord_getLsbD, if_neg (by omega), if_neg (by omega), if_neg (by omega),
    show dataW + 2 + i - dataW - 2 = i by omega]
  simp [hi]

@[simp] theorem lvlField_commandWord : lvlField (commandWord op rsv lvl data) = lvl := by
  rw [lvlField, commandWord_getLsbD, if_neg (Nat.lt_irrefl _), if_pos rfl]

@[simp] theorem dataField_commandWord : dataField (commandWord op rsv lvl data) = data := by
  apply BitVec.eq_of_getLsbD_eq
  intro i hi
  rw [dataField, BitVec.getLsbD_extractLsb', Nat.zero_add, commandWord_getLsbD, if_pos hi, decide_eq_true hi,
    Bool.true_and]

end fields

/-- A command word is composed of its fields. -/
theorem commandWord_fields {dataW : Nat} (w : BitVec (2 + 1 + 1 + dataW)) :
    commandWord (opField w) (w.getLsbD (dataW + 1)) (lvlField w) (dataField w) = w := by
  apply BitVec.eq_of_getLsbD_eq
  intro i hi
  rw [commandWord_getLsbD]
  by_cases h₁ : i < dataW
  · rw [if_pos h₁, dataField, BitVec.getLsbD_extractLsb', Nat.zero_add, decide_eq_true h₁, Bool.true_and]
  by_cases h₂ : i = dataW
  · rw [if_neg h₁, if_pos h₂, h₂, lvlField]
  by_cases h₃ : i = dataW + 1
  · rw [if_neg h₁, if_neg h₂, if_pos h₃, h₃]
  · have hlt : i - dataW - 2 < 2 := by
      have : i < 2 + 1 + 1 + dataW := hi
      omega
    rw [if_neg h₁, if_neg h₂, if_neg h₃, opField, BitVec.getLsbD_extractLsb', decide_eq_true hlt, Bool.true_and]
    exact congrArg _ (by omega)

namespace Machine

/-- Bit by bit, an event word (spec/30_encoding.md R98). -/
theorem Event.word_getLsbD {tsw : Nat} (e : Event tsw) (i : Nat) :
    e.word.getLsbD i =
      if i < tsw then e.stop.getLsbD i
      else if i < tsw + tsw then e.start.getLsbD (i - tsw)
      else if i < tsw + tsw + 8 then e.val.getLsbD (i - tsw - tsw)
      else e.kind.code.getLsbD (i - tsw - tsw - 8) := by
  unfold Event.word
  rw [BitVec.getLsbD_append, BitVec.getLsbD_append, BitVec.getLsbD_append]
  by_cases h₁ : i < tsw
  · simp only [h₁, if_true]
  by_cases h₂ : i < tsw + tsw
  · rw [if_neg h₁, if_pos (by omega), if_neg h₁, if_pos h₂]
  by_cases h₃ : i < tsw + tsw + 8
  · rw [if_neg h₁, if_neg (by omega), if_pos (by omega), if_neg h₁, if_neg h₂, if_pos h₃]
  · rw [if_neg h₁, if_neg (by omega), if_neg (by omega), if_neg h₁, if_neg h₂, if_neg h₃]

end Machine
end Sys2Proof
end

