-- ==== Sys2Proof/Laws/Operands.lean ====
section
/-!
SUPPORT. What the operand and flag operations do: the range comparison and the match predicates as inequalities of natural
numbers, the bit write, the span registers, and the values of the profile function.
-/

namespace Sys2Proof.Machine

variable {tsw rateW : Nat}

/-- The range comparison without subtraction. -/
theorem inRange_iff (d e m : Nat) : inRange d e m = true ↔ e ≤ d + m ∧ d ≤ e + m := by
  simp only [inRange, Bool.and_eq_true, decide_eq_true_eq]
  omega

theorem Profile.accepts_iff_fits (P : Profile rateW) (p : Pattern) (hi lo : Timestamp tsw) :
    P.accepts p hi lo = true ↔ P.Fits p hi lo := by
  simp only [Profile.accepts, Profile.Fits, Bool.and_eq_true, inRange_iff]

theorem Profile.accepts_eq_false_iff (P : Profile rateW) (p : Pattern) (hi lo : Timestamp tsw) :
    P.accepts p hi lo = false ↔ ¬ P.Fits p hi lo := by
  rw [← P.accepts_iff_fits, Bool.not_eq_true]

/-- A bit write changes its own bit only. -/
theorem storeBit_getLsbD (acc : BitVec 32) (i : Nat) (v : Bool) (hi : i < 32) (j : Nat) (hj : j < 32) :
    (storeBit acc i v).getLsbD j = if j = i then v else acc.getLsbD j := by
  by_cases h : j = i
  · subst h
    cases v <;> simp [storeBit, hj]
  · cases v <;> simp [storeBit, hj, h] <;> omega

/-- The span registers: a write changes the register it names only. -/
theorem Spans.get_set (x : Spans tsw) (i k : Nat) (v : Timestamp tsw) (hi : i < 4) (hk : k < 4) :
    (x.set i v).get k = if k = i then v else x.get k := by
  match i, k with
  | 0, 0 | 0, 1 | 0, 2 | 0, 3 | 1, 0 | 1, 1 | 1, 2 | 1, 3
  | 2, 0 | 2, 1 | 2, 2 | 2, 3 | 3, 0 | 3, 1 | 3, 2 | 3, 3 => rfl
  | i + 4, _ => omega
  | _, k + 4 => omega

@[simp] theorem Spans.get_zero (k : Nat) : (Spans.zero : Spans tsw).get k = 0 := by
  match k with
  | 0 | 1 | 2 | _ + 3 => rfl

/-- No value of the profile function is cut off by the width of its register. -/
theorem profileOf_toNat (rate : Count rateW) :
    (profileOf rate.toNat rateW).startbitHi.toNat = rate.toNat * 9 / 1000 ∧
    (profileOf rate.toNat rateW).startbitLo.toNat = rate.toNat * 9 / 2000 ∧
    (profileOf rate.toNat rateW).bit1Hi.toNat = rate.toNat * 11 / 20000 ∧
    (profileOf rate.toNat rateW).bit1Lo.toNat = rate.toNat * 17 / 10000 ∧
    (profileOf rate.toNat rateW).margin.toNat = rate.toNat * 11 / 20000 / 2 := by
  have h := rate.isLt
  refine ⟨?_, ?_, ?_, ?_, ?_⟩ <;>
    (simp only [profileOf, BitVec.toNat_ofNat]; exact Nat.mod_eq_of_lt (by omega))

@[simp] theorem profileOf_bit0Hi (r : Nat) : (profileOf r rateW).bit0Hi = (profileOf r rateW).bit1Hi := rfl
@[simp] theorem profileOf_bit0Lo (r : Nat) : (profileOf r rateW).bit0Lo = (profileOf r rateW).bit1Hi := rfl

/-- The profile of rate 0 is the cleared one. -/
@[simp] theorem profileOf_zero : profileOf 0 rateW = Profile.zero := rfl

/-- The verdict by its two checks and the table's answer. -/
theorem verdict_eq (known : Byte → Bool) (acc : BitVec 32) :
    verdict known acc =
      if hdrOk acc && sumOk acc then if known (frameByte acc 2) then .frameKnown else .frameUnknown
      else .frameInvalid := by
  unfold verdict tabAddr
  split <;> simp_all

end Sys2Proof.Machine
end

