-- ==== Sys2Proof/Laws/State.lean ====
section
/-!
SUPPORT. One lemma per field per update of the registers and of the state, true by rfl.
-/

namespace Sys2Proof.Machine

variable {tsw rateW : Nat}

@[simp] theorem Regs.hardwareReset_eq (r : Regs tsw rateW) : r.hardwareReset = Regs.reset := rfl

@[simp] theorem State.commit_regs (s : State) (o : Regs × List Event) : (s.commit o).regs = o.1 := rfl
@[simp] theorem State.commit_cmdPort (s : State) (o : Regs × List Event) : (s.commit o).cmdPort = s.cmdPort := rfl
@[simp] theorem State.commit_events (s : State) (o : Regs × List Event) : (s.commit o).events = s.events ++ o.2 := rfl

section raiseSampleRateMissing
variable (r : Regs tsw rateW)

@[simp] theorem Regs.raiseSampleRateMissing_state : (r.raiseSampleRateMissing).state = r.state := rfl
@[simp] theorem Regs.raiseSampleRateMissing_awaitPol : (r.raiseSampleRateMissing).awaitPol = r.awaitPol := rfl
@[simp] theorem Regs.raiseSampleRateMissing_ref0 : (r.raiseSampleRateMissing).ref0 = r.ref0 := rfl
@[simp] theorem Regs.raiseSampleRateMissing_ref1 : (r.raiseSampleRateMissing).ref1 = r.ref1 := rfl
@[simp] theorem Regs.raiseSampleRateMissing_nref : (r.raiseSampleRateMissing).nref = r.nref := rfl
@[simp] theorem Regs.raiseSampleRateMissing_hiDistance : (r.raiseSampleRateMissing).hiDistance = r.hiDistance := rfl
@[simp] theorem Regs.raiseSampleRateMissing_loDistance : (r.raiseSampleRateMissing).loDistance = r.loDistance := rfl
@[simp] theorem Regs.raiseSampleRateMissing_acc : (r.raiseSampleRateMissing).acc = r.acc := rfl
@[simp] theorem Regs.raiseSampleRateMissing_nbits : (r.raiseSampleRateMissing).nbits = r.nbits := rfl
@[simp] theorem Regs.raiseSampleRateMissing_bstart : (r.raiseSampleRateMissing).bstart = r.bstart := rfl
@[simp] theorem Regs.raiseSampleRateMissing_bend : (r.raiseSampleRateMissing).bend = r.bend := rfl
@[simp] theorem Regs.raiseSampleRateMissing_profile : (r.raiseSampleRateMissing).profile = r.profile := rfl
@[simp] theorem Regs.raiseSampleRateMissing_profileValid : (r.raiseSampleRateMissing).profileValid = r.profileValid := rfl
@[simp] theorem Regs.raiseSampleRateMissing_fault : (r.raiseSampleRateMissing).fault = true := rfl
@[simp] theorem Regs.raiseSampleRateMissing_fcause : (r.raiseSampleRateMissing).fcause = 1 := rfl

end raiseSampleRateMissing

section writeProfile
variable (r : Regs tsw rateW) (P : Profile rateW) (valid : Bool)

@[simp] theorem Regs.writeProfile_state : (r.writeProfile P valid).state = r.state := rfl
@[simp] theorem Regs.writeProfile_awaitPol : (r.writeProfile P valid).awaitPol = r.awaitPol := rfl
@[simp] theorem Regs.writeProfile_ref0 : (r.writeProfile P valid).ref0 = r.ref0 := rfl
@[simp] theorem Regs.writeProfile_ref1 : (r.writeProfile P valid).ref1 = r.ref1 := rfl
@[simp] theorem Regs.writeProfile_nref : (r.writeProfile P valid).nref = r.nref := rfl
@[simp] theorem Regs.writeProfile_hiDistance : (r.writeProfile P valid).hiDistance = r.hiDistance := rfl
@[simp] theorem Regs.writeProfile_loDistance : (r.writeProfile P valid).loDistance = r.loDistance := rfl
@[simp] theorem Regs.writeProfile_acc : (r.writeProfile P valid).acc = r.acc := rfl
@[simp] theorem Regs.writeProfile_nbits : (r.writeProfile P valid).nbits = r.nbits := rfl
@[simp] theorem Regs.writeProfile_bstart : (r.writeProfile P valid).bstart = r.bstart := rfl
@[simp] theorem Regs.writeProfile_bend : (r.writeProfile P valid).bend = r.bend := rfl
@[simp] theorem Regs.writeProfile_profile : (r.writeProfile P valid).profile = P := rfl
@[simp] theorem Regs.writeProfile_profileValid : (r.writeProfile P valid).profileValid = valid := rfl
@[simp] theorem Regs.writeProfile_fault : (r.writeProfile P valid).fault = r.fault := rfl
@[simp] theorem Regs.writeProfile_fcause : (r.writeProfile P valid).fcause = r.fcause := rfl

end writeProfile

section recordFirst
variable (r : Regs tsw rateW) (ts : Timestamp tsw)

@[simp] theorem Regs.recordFirst_state : (r.recordFirst ts).state = .start := rfl
@[simp] theorem Regs.recordFirst_awaitPol : (r.recordFirst ts).awaitPol = !r.awaitPol := rfl
@[simp] theorem Regs.recordFirst_ref0 : (r.recordFirst ts).ref0 = ts := rfl
@[simp] theorem Regs.recordFirst_ref1 : (r.recordFirst ts).ref1 = r.ref1 := rfl
@[simp] theorem Regs.recordFirst_nref : (r.recordFirst ts).nref = 1 := rfl
@[simp] theorem Regs.recordFirst_hiDistance : (r.recordFirst ts).hiDistance = r.hiDistance := rfl
@[simp] theorem Regs.recordFirst_loDistance : (r.recordFirst ts).loDistance = r.loDistance := rfl
@[simp] theorem Regs.recordFirst_acc : (r.recordFirst ts).acc = r.acc := rfl
@[simp] theorem Regs.recordFirst_nbits : (r.recordFirst ts).nbits = r.nbits := rfl
@[simp] theorem Regs.recordFirst_bstart : (r.recordFirst ts).bstart = r.bstart := rfl
@[simp] theorem Regs.recordFirst_bend : (r.recordFirst ts).bend = r.bend := rfl
@[simp] theorem Regs.recordFirst_profile : (r.recordFirst ts).profile = r.profile := rfl
@[simp] theorem Regs.recordFirst_profileValid : (r.recordFirst ts).profileValid = r.profileValid := rfl
@[simp] theorem Regs.recordFirst_fault : (r.recordFirst ts).fault = r.fault := rfl
@[simp] theorem Regs.recordFirst_fcause : (r.recordFirst ts).fcause = r.fcause := rfl

end recordFirst

section assignLow
variable (r : Regs tsw rateW) (d : Timestamp tsw)

@[simp] theorem Regs.assignLow_state : (r.assignLow d).state = .gotLow := rfl
@[simp] theorem Regs.assignLow_awaitPol : (r.assignLow d).awaitPol = r.awaitPol := rfl
@[simp] theorem Regs.assignLow_ref0 : (r.assignLow d).ref0 = r.ref0 := rfl
@[simp] theorem Regs.assignLow_ref1 : (r.assignLow d).ref1 = r.ref1 := rfl
@[simp] theorem Regs.assignLow_nref : (r.assignLow d).nref = r.nref := rfl
@[simp] theorem Regs.assignLow_hiDistance : (r.assignLow d).hiDistance = r.hiDistance := rfl
@[simp] theorem Regs.assignLow_loDistance : (r.assignLow d).loDistance = d := rfl
@[simp] theorem Regs.assignLow_acc : (r.assignLow d).acc = r.acc := rfl
@[simp] theorem Regs.assignLow_nbits : (r.assignLow d).nbits = r.nbits := rfl
@[simp] theorem Regs.assignLow_bstart : (r.assignLow d).bstart = r.bstart := rfl
@[simp] theorem Regs.assignLow_bend : (r.assignLow d).bend = r.bend := rfl
@[simp] theorem Regs.assignLow_profile : (r.assignLow d).profile = r.profile := rfl
@[simp] theorem Regs.assignLow_profileValid : (r.assignLow d).profileValid = r.profileValid := rfl
@[simp] theorem Regs.assignLow_fault : (r.assignLow d).fault = r.fault := rfl
@[simp] theorem Regs.assignLow_fcause : (r.assignLow d).fcause = r.fcause := rfl

end assignLow

section assignHigh
variable (r : Regs tsw rateW) (d : Timestamp tsw)

@[simp] theorem Regs.assignHigh_state : (r.assignHigh d).state = .gotHigh := rfl
@[simp] theorem Regs.assignHigh_awaitPol : (r.assignHigh d).awaitPol = r.awaitPol := rfl
@[simp] theorem Regs.assignHigh_ref0 : (r.assignHigh d).ref0 = r.ref0 := rfl
@[simp] theorem Regs.assignHigh_ref1 : (r.assignHigh d).ref1 = r.ref1 := rfl
@[simp] theorem Regs.assignHigh_nref : (r.assignHigh d).nref = r.nref := rfl
@[simp] theorem Regs.assignHigh_hiDistance : (r.assignHigh d).hiDistance = d := rfl
@[simp] theorem Regs.assignHigh_loDistance : (r.assignHigh d).loDistance = 0 := rfl
@[simp] theorem Regs.assignHigh_acc : (r.assignHigh d).acc = r.acc := rfl
@[simp] theorem Regs.assignHigh_nbits : (r.assignHigh d).nbits = r.nbits := rfl
@[simp] theorem Regs.assignHigh_bstart : (r.assignHigh d).bstart = r.bstart := rfl
@[simp] theorem Regs.assignHigh_bend : (r.assignHigh d).bend = r.bend := rfl
@[simp] theorem Regs.assignHigh_profile : (r.assignHigh d).profile = r.profile := rfl
@[simp] theorem Regs.assignHigh_profileValid : (r.assignHigh d).profileValid = r.profileValid := rfl
@[simp] theorem Regs.assignHigh_fault : (r.assignHigh d).fault = r.fault := rfl
@[simp] theorem Regs.assignHigh_fcause : (r.assignHigh d).fcause = r.fcause := rfl

end assignHigh

section recordEdge
variable (r : Regs tsw rateW) (ts : Timestamp tsw)

@[simp] theorem Regs.recordEdge_state : (r.recordEdge ts).state = r.state := rfl
@[simp] theorem Regs.recordEdge_awaitPol : (r.recordEdge ts).awaitPol = !r.awaitPol := rfl
@[simp] theorem Regs.recordEdge_ref0 : (r.recordEdge ts).ref0 = ts := rfl
@[simp] theorem Regs.recordEdge_ref1 : (r.recordEdge ts).ref1 = r.ref0 := rfl
@[simp] theorem Regs.recordEdge_nref : (r.recordEdge ts).nref = 2 := rfl
@[simp] theorem Regs.recordEdge_hiDistance : (r.recordEdge ts).hiDistance = r.hiDistance := rfl
@[simp] theorem Regs.recordEdge_loDistance : (r.recordEdge ts).loDistance = r.loDistance := rfl
@[simp] theorem Regs.recordEdge_acc : (r.recordEdge ts).acc = r.acc := rfl
@[simp] theorem Regs.recordEdge_nbits : (r.recordEdge ts).nbits = r.nbits := rfl
@[simp] theorem Regs.recordEdge_bstart : (r.recordEdge ts).bstart = r.bstart := rfl
@[simp] theorem Regs.recordEdge_bend : (r.recordEdge ts).bend = r.bend := rfl
@[simp] theorem Regs.recordEdge_profile : (r.recordEdge ts).profile = r.profile := rfl
@[simp] theorem Regs.recordEdge_profileValid : (r.recordEdge ts).profileValid = r.profileValid := rfl
@[simp] theorem Regs.recordEdge_fault : (r.recordEdge ts).fault = r.fault := rfl
@[simp] theorem Regs.recordEdge_fcause : (r.recordEdge ts).fcause = r.fcause := rfl

end recordEdge

section appendBit
variable (r : Regs tsw rateW) (v : Bool) (s e : Timestamp tsw)

@[simp] theorem Regs.appendBit_state : (r.appendBit v s e).state = r.state := rfl
@[simp] theorem Regs.appendBit_awaitPol : (r.appendBit v s e).awaitPol = r.awaitPol := rfl
@[simp] theorem Regs.appendBit_ref0 : (r.appendBit v s e).ref0 = r.ref0 := rfl
@[simp] theorem Regs.appendBit_ref1 : (r.appendBit v s e).ref1 = r.ref1 := rfl
@[simp] theorem Regs.appendBit_nref : (r.appendBit v s e).nref = r.nref := rfl
@[simp] theorem Regs.appendBit_hiDistance : (r.appendBit v s e).hiDistance = r.hiDistance := rfl
@[simp] theorem Regs.appendBit_loDistance : (r.appendBit v s e).loDistance = r.loDistance := rfl
@[simp] theorem Regs.appendBit_acc : (r.appendBit v s e).acc = if r.nbits.toNat ≤ 31 then storeBit r.acc (31 - r.nbits.toNat) v else r.acc := rfl
@[simp] theorem Regs.appendBit_nbits : (r.appendBit v s e).nbits = r.nbits + 1 := rfl
@[simp] theorem Regs.appendBit_bstart : (r.appendBit v s e).bstart = if r.nbits.toNat % 8 = 0 then r.bstart.set (r.nbits.toNat / 8) s else r.bstart := rfl
@[simp] theorem Regs.appendBit_bend : (r.appendBit v s e).bend = if r.nbits.toNat % 8 = 7 then r.bend.set (r.nbits.toNat / 8) e else r.bend := rfl
@[simp] theorem Regs.appendBit_profile : (r.appendBit v s e).profile = r.profile := rfl
@[simp] theorem Regs.appendBit_profileValid : (r.appendBit v s e).profileValid = r.profileValid := rfl
@[simp] theorem Regs.appendBit_fault : (r.appendBit v s e).fault = r.fault := rfl
@[simp] theorem Regs.appendBit_fcause : (r.appendBit v s e).fcause = r.fcause := rfl

end appendBit

section frameReset
variable (r : Regs tsw rateW)

@[simp] theorem Regs.frameReset_state : (r.frameReset).state = .idle := rfl
@[simp] theorem Regs.frameReset_awaitPol : (r.frameReset).awaitPol = r.awaitPol := rfl
@[simp] theorem Regs.frameReset_ref0 : (r.frameReset).ref0 = 0 := rfl
@[simp] theorem Regs.frameReset_ref1 : (r.frameReset).ref1 = 0 := rfl
@[simp] theorem Regs.frameReset_nref : (r.frameReset).nref = 0 := rfl
@[simp] theorem Regs.frameReset_hiDistance : (r.frameReset).hiDistance = 0 := rfl
@[simp] theorem Regs.frameReset_loDistance : (r.frameReset).loDistance = 0 := rfl
@[simp] theorem Regs.frameReset_acc : (r.frameReset).acc = 0 := rfl
@[simp] theorem Regs.frameReset_nbits : (r.frameReset).nbits = 0 := rfl
@[simp] theorem Regs.frameReset_bstart : (r.frameReset).bstart = Spans.zero := rfl
@[simp] theorem Regs.frameReset_bend : (r.frameReset).bend = Spans.zero := rfl
@[simp] theorem Regs.frameReset_profile : (r.frameReset).profile = r.profile := rfl
@[simp] theorem Regs.frameReset_profileValid : (r.frameReset).profileValid = r.profileValid := rfl
@[simp] theorem Regs.frameReset_fault : (r.frameReset).fault = r.fault := rfl
@[simp] theorem Regs.frameReset_fcause : (r.frameReset).fcause = r.fcause := rfl

end frameReset

end Sys2Proof.Machine
end

