-- ==== Sys2Proof/Laws/Edge.lean ====
section
/-!
SUPPORT. What an EDGE can do, said once: `classify` by what the pair of distances reads as, and the nine outcomes of `edge`
(`edge_outcome`). Proofs about EDGE cite these instead of unfolding it.
-/

namespace Sys2Proof.Machine

variable {tsw rateW : Nat}

theorem nbits_ne_32 (n : BitVec 6) (h : n.toNat ≤ 31) : n ≠ 32 := by
  rintro rfl
  exact absurd h (by decide)

theorem nbits_succ_ne_32 (n : BitVec 6) (h : n.toNat ≤ 30) : n + 1 ≠ 32 := by
  bv_omega

section classify
variable (ts : Timestamp tsw) (r : Regs tsw rateW)

theorem classify_of_start (h : r.profile.Fits .start r.hiDistance r.loDistance) :
    classify ts r = (r, [startEvent r.ref1 ts]) := by
  simp only [classify, Regs.firstMatch, Regs.matchesPattern, (r.profile.accepts_iff_fits _ _ _).2 h, if_true]

theorem classify_of_readsBit (v : Bool) (h : r.profile.ReadsBit v r.hiDistance r.loDistance) :
    classify ts r = (r.appendBit v r.ref1 ts, [bitEvent v r.ref1 ts]) := by
  obtain ⟨h₁, h₂⟩ := h
  rw [← r.profile.accepts_eq_false_iff] at h₁
  cases v with
  | true =>
    rw [if_pos rfl, ← r.profile.accepts_iff_fits] at h₂
    simp [classify, Regs.firstMatch, Regs.matchesPattern, h₁, h₂]
  | false =>
    rw [if_neg (by decide), ← r.profile.accepts_eq_false_iff, ← r.profile.accepts_iff_fits] at h₂
    simp [classify, Regs.firstMatch, Regs.matchesPattern, h₁, h₂]

theorem classify_of_readsNothing (h : r.profile.ReadsNothing r.hiDistance r.loDistance) :
    classify ts r = (r, []) := by
  obtain ⟨h₁, h₂, h₃⟩ := h
  rw [← r.profile.accepts_eq_false_iff] at h₁ h₂ h₃
  simp [classify, Regs.firstMatch, Regs.matchesPattern, h₁, h₂, h₃]

end classify

/-- Every pair of distances is a Start marker, a bit of one value, or nothing. -/
theorem Profile.reads_cases (P : Profile rateW) (hi lo : Timestamp tsw) :
    P.Fits .start hi lo ∨ (∃ v, P.ReadsBit v hi lo) ∨ P.ReadsNothing hi lo := by
  by_cases h₁ : P.Fits .start hi lo
  · exact .inl h₁
  by_cases h₂ : P.Fits .bit1 hi lo
  · exact .inr (.inl ⟨true, h₁, by rw [if_pos rfl]; exact h₂⟩)
  by_cases h₃ : P.Fits .bit0 hi lo
  · exact .inr (.inl ⟨false, h₁, by rw [if_neg (by decide)]; exact ⟨h₂, h₃⟩⟩)
  · exact .inr (.inr ⟨h₁, h₂, h₃⟩)

/-- The registers after the assignment of the low phase that the edge at `ts` closes. -/
abbrev Regs.lowClosed (r : Regs tsw rateW) (ts : Timestamp tsw) : Regs tsw rateW := r.assignLow (distance ts r.ref0)

/-- The registers after the thirty-second bit, before the frame is assembled. -/
abbrev Regs.windowFull (r : Regs tsw rateW) (v : Bool) (ts : Timestamp tsw) : Regs tsw rateW :=
  ((r.lowClosed ts).appendBit v r.ref1 ts).recordEdge ts

/-- What an EDGE can do to a state with `nbits ≤ 31` (spec/41_edge_classifier.md R140): the registers after it and its
events, with the conditions of each case. -/
inductive EdgeOutcome (known : Byte → Bool) (ts : Timestamp tsw) (level : Bool) (r : Regs tsw rateW) :
    Regs tsw rateW × List (Event tsw) → Prop
  | halted (h : r.fault = true) : EdgeOutcome known ts level r (r, [])
  | rateMissing (h₁ : r.fault = false) (h₂ : r.profileValid = false) :
      EdgeOutcome known ts level r (r.raiseSampleRateMissing, [])
  | dropped (h₁ : r.fault = false) (h₂ : r.profileValid = true) (h₃ : level ≠ r.awaitPol) :
      EdgeOutcome known ts level r (r, [])
  | first (h : r.consumes level = true) (hs : r.state = .idle) : EdgeOutcome known ts level r (r.recordFirst ts, [])
  | high (h : r.consumes level = true) (hs : r.state ≠ .idle) (hl : level = false ∨ r.state = .start) :
      EdgeOutcome known ts level r ((r.assignHigh (distance ts r.ref0)).recordEdge ts, [])
  | unmatched (h : r.consumes level = true) (hs : r.state ≠ .idle) (hs' : r.state ≠ .start) (hl : level = true)
      (hp : r.profile.ReadsNothing r.hiDistance (distance ts r.ref0)) :
      EdgeOutcome known ts level r ((r.lowClosed ts).recordEdge ts, [])
  | startMarker (h : r.consumes level = true) (hs : r.state ≠ .idle) (hs' : r.state ≠ .start) (hl : level = true)
      (hp : r.profile.Fits .start r.hiDistance (distance ts r.ref0)) :
      EdgeOutcome known ts level r ((r.lowClosed ts).recordEdge ts, [startEvent r.ref1 ts])
  | bit (v : Bool) (h : r.consumes level = true) (hs : r.state ≠ .idle) (hs' : r.state ≠ .start) (hl : level = true)
      (hn : r.nbits.toNat ≤ 30) (hp : r.profile.ReadsBit v r.hiDistance (distance ts r.ref0)) :
      EdgeOutcome known ts level r (r.windowFull v ts, [bitEvent v r.ref1 ts])
  | frame (v : Bool) (h : r.consumes level = true) (hs : r.state ≠ .idle) (hs' : r.state ≠ .start) (hl : level = true)
      (hn : r.nbits = 31) (hp : r.profile.ReadsBit v r.hiDistance (distance ts r.ref0)) :
      EdgeOutcome known ts level r
        ((r.windowFull v ts).frameReset, bitEvent v r.ref1 ts :: frameEvents known (r.windowFull v ts))

/-- A consumed edge outside `IDLE` is `consumeEdge`. -/
theorem edge_of_consumes (known : Byte → Bool) (ts : Timestamp tsw) (level : Bool) (r : Regs tsw rateW)
    (h : r.consumes level = true) (hs : r.state ≠ .idle) : edge known ts level r = consumeEdge known ts level r := by
  simp only [Regs.consumes, Bool.and_eq_true, Bool.not_eq_true', beq_iff_eq] at h
  obtain ⟨⟨h₁, h₂⟩, rfl⟩ := h
  simp [edge, h₁, h₂, hs, Regs.rateMissing, Regs.drops]

/-- An edge that closes a low phase: classify, record, frame trigger. -/
theorem edge_of_closesLow (known : Byte → Bool) (ts : Timestamp tsw) (r : Regs tsw rateW) (h : r.consumes true = true)
    (hs : r.state ≠ .idle) (hs' : r.state ≠ .start) :
    edge known ts true r =
      frameTrigger known ((classify ts (r.lowClosed ts)).1.recordEdge ts, (classify ts (r.lowClosed ts)).2) := by
  simp [edge_of_consumes known ts true r h hs, consumeEdge, assignAndClassify, Regs.closesLow, hs']

theorem edge_outcome (known : Byte → Bool) (ts : Timestamp tsw) (level : Bool) (r : Regs tsw rateW) (hn : r.nbits.toNat ≤ 31) :
    EdgeOutcome known ts level r (edge known ts level r) := by
  have hne := nbits_ne_32 _ hn
  by_cases h₁ : r.fault = true
  · rw [show edge known ts level r = (r, []) by simp [edge, h₁]]
    exact .halted h₁
  rw [Bool.not_eq_true] at h₁
  by_cases h₂ : r.profileValid = true
  swap
  · rw [Bool.not_eq_true] at h₂
    rw [show edge known ts level r = (r.raiseSampleRateMissing, []) by simp [edge, h₁, h₂, Regs.rateMissing]]
    exact .rateMissing h₁ h₂
  by_cases h₃ : level = r.awaitPol
  swap
  · rw [show edge known ts level r = (r, []) by simp [edge, h₁, h₂, h₃, Regs.rateMissing, Regs.drops]]
    exact .dropped h₁ h₂ h₃
  have hc : r.consumes level = true := by simp [Regs.consumes, h₁, h₂, h₃]
  by_cases hs : r.state = .idle
  · rw [show edge known ts level r = (r.recordFirst ts, []) by
      simp [edge, h₁, h₂, h₃, hs, Regs.rateMissing, Regs.drops]]
    exact .first hc hs
  by_cases hl : level = false ∨ r.state = .start
  · have hcl : r.closesLow level = false := by rcases hl with h | h <;> simp [Regs.closesLow, h]
    have he : edge known ts level r = ((r.assignHigh (distance ts r.ref0)).recordEdge ts, []) := by
      rw [edge_of_consumes known ts level r hc hs, consumeEdge, assignAndClassify, hcl]
      simp only [Bool.false_eq_true, if_false, frameTrigger, Regs.recordEdge_nbits, Regs.assignHigh_nbits, hne]
    rw [he]
    exact .high hc hs hl
  obtain ⟨hl, hs'⟩ := not_or.1 hl
  rw [Bool.not_eq_false] at hl
  subst hl
  rw [edge_of_closesLow known ts r hc hs hs']
  rcases r.profile.reads_cases r.hiDistance (distance ts r.ref0) with hp | ⟨v, hp⟩ | hp
  · rw [classify_of_start ts (r.lowClosed ts) hp]
    simp only [frameTrigger, Regs.recordEdge_nbits, Regs.assignLow_nbits, hne, if_false]
    exact .startMarker hc hs hs' rfl hp
  · rw [classify_of_readsBit ts (r.lowClosed ts) v hp]
    by_cases hb : r.nbits = 31
    · simp only [frameTrigger, Regs.recordEdge_nbits, Regs.appendBit_nbits, Regs.assignLow_nbits, hb,
        show (31#6 + 1#6 : BitVec 6) = 32 from by decide, BitVec.ofNat_eq_ofNat, if_true, List.singleton_append]
      exact .frame v hc hs hs' rfl hb hp
    · have hn' : r.nbits.toNat ≤ 30 := by
        have : r.nbits.toNat ≠ 31 := fun h => hb (BitVec.eq_of_toNat_eq h)
        omega
      simp only [frameTrigger, Regs.recordEdge_nbits, Regs.appendBit_nbits, Regs.assignLow_nbits,
        nbits_succ_ne_32 _ hn', if_false]
      exact .bit v hc hs hs' rfl hn' hp
  · rw [classify_of_readsNothing ts (r.lowClosed ts) hp]
    simp only [frameTrigger, Regs.recordEdge_nbits, Regs.assignLow_nbits, hne, if_false]
    exact .unmatched hc hs hs' rfl hp

end Sys2Proof.Machine
end

