-- ==== Sys2Proof/Laws/PerInstr.lean ====
section
/-!
SUPPORT. Statements made per command, about the command as syntax.
-/

namespace Sys2Proof.Laws

/-- The opcode of each row of spec/opcode_table.json, the two bits of its `match` column. -/
def OpcodeField.opcode : Instr → BitVec 2
  | .nop => 0
  | .setrate _ => 1
  | .edge _ _ => 2
  | .reserved3 => 3

/-- The word of a command carries its row's opcode, whatever its operands, and leaves `rsv` 0. -/
def OpcodeField.Statement (i : Instr) : Prop :=
  opField (encode i) = OpcodeField.opcode i ∧ (encode i).getLsbD (Config.DATA_W + 1) = false

theorem OpcodeField.nop : OpcodeField.Statement .nop := by
  simp [OpcodeField.Statement, OpcodeField.opcode, encode, Instr.command, Command.word, commandWord_getLsbD]

theorem OpcodeField.setrate (rate : Count) : OpcodeField.Statement (.setrate rate) := by
  simp [OpcodeField.Statement, OpcodeField.opcode, encode, Instr.command, Command.word, commandWord_getLsbD]

theorem OpcodeField.edge (ts : Timestamp) (level : Bool) : OpcodeField.Statement (.edge ts level) := by
  simp [OpcodeField.Statement, OpcodeField.opcode, encode, Instr.command, Command.word, commandWord_getLsbD]

theorem OpcodeField.reserved3 : OpcodeField.Statement .reserved3 := by
  simp [OpcodeField.Statement, OpcodeField.opcode, encode, Instr.command, Command.word, commandWord_getLsbD]

end Sys2Proof.Laws
end

