-- ==== Sys2Proof/Laws/Realisation.lean ====
section
/-!
SUPPORT. What one command, one clock edge and a list of clock edges do at any parameters, case by case, and the clocked view
while an event is on its port.
-/

namespace Sys2Proof

open Machine

section accept
variable (p : Params) (r : Regs p.tsw p.rateW)

@[simp] theorem Params.accept_setrate (rate : Count p.rateW) :
    p.accept (.setrate rate) r = (setrate p.rateSupported rate r, []) := rfl

@[simp] theorem Params.accept_edge (ts : Timestamp p.tsw) (level : Bool) :
    p.accept (.edge ts level) r = edge p.cmdKnown ts level r := rfl

end accept

section tick
variable (p : Params) (e : PortEdge p.tsw p.rateW) (r : Regs p.tsw p.rateW)

theorem Params.tick_rst (h : e.rst = true) : p.tick e r = (Regs.reset, []) := by
  simp [Params.tick, h]

theorem Params.tick_idle (hr : e.rst = false) (hv : e.cmdValid = false) : p.tick e r = (r, []) := by
  simp [Params.tick, hr, hv]

theorem Params.tick_accepted (hr : e.rst = false) (hv : e.cmdValid = true) :
    p.tick e r = p.accept (decodeCommand e.cmd) r := by
  simp [Params.tick, hr, hv]

@[simp] theorem Params.run_nil : p.run [] r = (r, []) := rfl

@[simp] theorem Params.run_cons (edges : List (PortEdge p.tsw p.rateW)) :
    p.run (e :: edges) r = ((p.run edges (p.tick e r).1).1, (p.tick e r).2 ++ (p.run edges (p.tick e r).1).2) := rfl

end tick

namespace Machine
variable (p : Params) (e : PortEdge p.tsw p.rateW) (r : Regs p.tsw p.rateW)

/-- While an event is on the port, a clock edge without a reset delivers it and does nothing else. -/
theorem clockEdge_delivers (ev : Event p.tsw) (rest : List (Event p.tsw)) (h : e.rst = false) :
    clockEdge p ⟨r, ev :: rest⟩ e = ⟨r, rest⟩ := by
  simp [clockEdge, h]

/-- With no event on the port, a clock edge without a reset is a tick. -/
theorem clockEdge_ready (h : e.rst = false) : clockEdge p ⟨r, []⟩ e = ⟨(p.tick e r).1, (p.tick e r).2⟩ := by
  simp [clockEdge, h]

end Machine
end Sys2Proof
end

