-- ==== Sys2Proof/Laws/Step.lean ====
section
/-!
SUPPORT. What a step can do, said once (`step_cases`), and the meaning each command has.
-/

namespace Sys2Proof.Machine

variable {tsw rateW : Nat}

@[simp] theorem exec_nop (s : State) : exec .nop s = .next s := rfl
@[simp] theorem exec_reserved3 (s : State) : exec .reserved3 s = .next s := rfl
@[simp] theorem exec_setrate (rate : Count) (s : State) :
    exec (.setrate rate) s = .next { s with regs := setrate Config.RATE_SUPPORTED rate s.regs } := rfl
@[simp] theorem exec_edge (ts : Timestamp) (level : Bool) (s : State) :
    exec (.edge ts level) s = .next (s.commit (edge Config.CMD_KNOWN ts level s.regs)) := rfl

section nextAction
variable (s : State) (e : PortEdge) (rest : List PortEdge)

theorem nextAction_nil (h : s.cmdPort = []) : nextAction s = .settled s := by
  simp [nextAction, h]

theorem nextAction_rst (h : s.cmdPort = e :: rest) (hr : e.rst = true) :
    nextAction s = .settled { s with regs := Regs.reset, cmdPort := rest } := by
  simp [nextAction, h, hr]

theorem nextAction_idle (h : s.cmdPort = e :: rest) (hr : e.rst = false) (hv : e.cmdValid = false) :
    nextAction s = .settled { s with cmdPort := rest } := by
  simp [nextAction, h, hr, hv]

theorem nextAction_accepted (h : s.cmdPort = e :: rest) (hr : e.rst = false) (hv : e.cmdValid = true) :
    nextAction s = .accepted e.cmd { s with cmdPort := rest } := by
  simp [nextAction, h, hr, hv]

end nextAction

/-- What SETRATE can do (spec/40_setrate_timing_profile.md R120): nothing while halted, else the profile of an accepted rate
or the cleared one. -/
theorem setrate_cases (supported : Count rateW → Bool) (rate : Count rateW) (r : Regs tsw rateW) :
    (r.fault = true ∧ setrate supported rate r = r) ∨
    (r.fault = false ∧ rateOk supported rate = true ∧
      setrate supported rate r = r.writeProfile (profileOf rate.toNat rateW) true) ∨
    (r.fault = false ∧ rateOk supported rate = false ∧ setrate supported rate r = r.writeProfile Profile.zero false) := by
  by_cases hf : r.fault = true
  · exact .inl ⟨hf, by simp [setrate, hf]⟩
  by_cases hr : rateOk supported rate = true
  · exact .inr (.inl ⟨by simpa using hf, hr, by simp [setrate, hf, hr]⟩)
  · exact .inr (.inr ⟨by simpa using hf, by simpa using hr, by simp [setrate, hf, hr]⟩)

/-- What a step can do: hold, take a clock edge with no command, reset, or run the accepted command. -/
theorem step_cases (s t : State) (h : step s = .next t) :
    (s.cmdPort = [] ∧ t = s) ∨
    ∃ e rest, s.cmdPort = e :: rest ∧
      ((e.rst = true ∧ t = { s with regs := Regs.reset, cmdPort := rest }) ∨
       (e.rst = false ∧ e.cmdValid = false ∧ t = { s with cmdPort := rest }) ∨
       (e.rst = false ∧ e.cmdValid = true ∧ exec (decode e.cmd) { s with cmdPort := rest } = .next t)) := by
  unfold step at h
  cases hp : s.cmdPort with
  | nil =>
    rw [nextAction_nil s hp] at h
    injection h with h
    exact .inl ⟨rfl, h.symm⟩
  | cons e rest =>
    refine .inr ⟨e, rest, rfl, ?_⟩
    cases hr : e.rst with
    | true =>
      rw [nextAction_rst s e rest hp hr] at h
      injection h with h
      exact .inl ⟨rfl, h.symm⟩
    | false =>
      cases hv : e.cmdValid with
      | false =>
        rw [nextAction_idle s e rest hp hr hv] at h
        injection h with h
        exact .inr (.inl ⟨rfl, rfl, h.symm⟩)
      | true =>
        rw [nextAction_accepted s e rest hp hr hv] at h
        exact .inr (.inr ⟨rfl, rfl, h⟩)

/-- No step: the state as it was. -/
theorem run_zero (s : State) : Host.Core.run core 0 s = .next s := rfl

/-- On any machine: a step that answers a next state, then the other steps from there. -/
theorem coreRun_succ (M : Host.Core) (k : Nat) (s t : M.State) (h : M.step s = .next t) :
    M.run (k + 1) s = M.run k t := by
  rw [Host.Core.run, h]

/-- The same on PWC. -/
theorem run_succ_of_next (k : Nat) (s t : State) (h : step s = .next t) :
    Host.Core.run core (k + 1) s = Host.Core.run core k t := coreRun_succ core k s t h

end Sys2Proof.Machine
end

