-- ==== Sys2Proof/Tests/Slice0.lean ====
section
/-!
SUPPORT. Tests: what the well-formedness checks refuse, words written out from spec/30_encoding.md R92 to R94 and what they
decode to, one-step vectors of spec/95_test_vectors.md (V1 to V8), and for every statement with hypotheses a state and operands
that meet them.
-/

namespace Sys2Proof.Tests

open Sys2Proof.Machine

/-! ### Well-formedness -/

/-- spec/43_nop_reserved.md R191: a program may not hold the reserved opcode. -/
theorem test_wf_refuses_reserved3 : Instr.reserved3.wf = false := by decide

theorem test_wf_accepts_legal_commands :
    Instr.nop.wf = true ∧ (Instr.setrate 0).wf = true ∧ (Instr.edge 0xFFFFFFFF true).wf = true := by decide

/-- spec/30_encoding.md R102: the first operand past each range is refused. -/
theorem test_wf_refuses_long_operands :
    (AsmLine.setrate 0x100000000).wf = false ∧ (AsmLine.edge 0x100000000 true).wf = false ∧
    (AsmLine.rise 0x100000000).wf = false ∧ (AsmLine.fall 0x100000000).wf = false ∧
    (AsmLine.pulse 0xFFFFFFFF 1 0).wf = false := by decide

theorem test_wf_accepts_largest_operands :
    AsmLine.nop.wf = true ∧ (AsmLine.setrate 0xFFFFFFFF).wf = true ∧ (AsmLine.edge 0xFFFFFFFF false).wf = true ∧
    (AsmLine.rise 0xFFFFFFFF).wf = true ∧ (AsmLine.fall 0xFFFFFFFF).wf = true ∧
    (AsmLine.pulse 0xFFFFFFFD 1 1).wf = true := by decide

/-- A word with `rsv` set, and the reserved opcode, are no words a host should use (R96, U2, U3). -/
theorem test_legalWord_refuses : legalWord (0x7000F4240 : CmdWord) = false ∧
    legalWord (0xC00000000 : CmdWord) = false ∧ legalWord (0x000000001 : CmdWord) = false ∧
    legalWord (0x4000F4240 : CmdWord) = true := by decide

/-! ### Decoding: words of spec/95_test_vectors.md V1, V2, V7, V8 -/

theorem test_decode_nop : decode 0x000000000 = .nop ∧ decode 0x3FFFFFFFF = .nop := by decide

theorem test_decode_setrate : decode 0x4000F4240 = .setrate 1000000 ∧ decode 0x7000F4240 = .setrate 1000000 ∧
    decode 0x4FFFFFFFF = .setrate 4294967295 ∧ decode 0x400000000 = .setrate 0 := by decide

theorem test_decode_edge : decode 0x9000003E8 = .edge 1000 true ∧ decode 0x800002710 = .edge 10000 false ∧
    decode 0xB000038A4 = .edge 14500 true ∧ decode 0x9FFFFFFFF = .edge 4294967295 true ∧
    decode 0x800000000 = .edge 0 false := by decide

theorem test_decode_reserved3 : decode 0xC00000000 = .reserved3 ∧ decode 0xFFFFFFFFF = .reserved3 := by decide

/-- The canonical words of V8. -/
theorem test_encode : encode .nop = 0x000000000 ∧ encode (.setrate 1000000) = 0x4000F4240 ∧
    encode (.edge 1000 true) = 0x9000003E8 ∧ encode (.edge 10000 false) = 0x800002710 ∧
    encode .reserved3 = 0xC00000000 := by decide

/-- spec/30_encoding.md R103. -/
theorem test_pulse_expands : assemble [.pulse 1000 9000 4500] = [0x800002710, 0x9000038A4] := by decide

/-- The table's rows, read through the host's function, in five whole bytes. -/
theorem test_decodeTableWord : decodeTableWord 40 0x4000F4240 = some (.setrate 1000000) ∧
    decodeTableWord 40 0xC00000000 = some .reserved3 ∧ decodeTableWord 40 0x1000000000 = none := by decide

/-- The event words of V8. -/
theorem test_event_words :
    Event.word (⟨.start, 0, 1000, 14500⟩ : Event) = 0x100000003E8000038A4 ∧
    Event.word (⟨.bit, 1, 14500, 16750⟩ : Event) = 0x201000038A40000416E ∧
    Event.word (⟨.byte, 0xCA, 14500, 27900⟩ : Event) = 0x3CA000038A400006CFC ∧
    Event.word (⟨.frameInvalid, 0x12, 14500, 65800⟩ : Event) = 0x412000038A400010108 ∧
    Event.word (⟨.frameUnknown, 0x12, 14500, 66950⟩ : Event) = 0x512000038A400010586 ∧
    Event.word (⟨.frameKnown, 0x12, 14500, 66950⟩ : Event) = 0x612000038A400010586 := by decide

/-! ### One command -/

/-- The registers after reset, at the default widths. -/
def resetRegs : Regs := Regs.reset

/-- The registers after `SETRATE 1000000` from reset. -/
def tuned : Regs := { resetRegs with profile := profileOf 1000000, profileValid := true }

/-- The registers after a high phase of `hi` samples that began at 1000, at that rate. -/
def afterHigh (hi : Timestamp) : Regs :=
  { tuned with state := .gotHigh, ref0 := 1000 + hi, ref1 := 1000, nref := 2, hiDistance := hi }

/-- The same with `n` bits in the accumulator. -/
def holding (n : BitVec 6) (acc : BitVec 32) (hi : Timestamp) : Regs := { afterHigh hi with nbits := n, acc := acc }

/-- The registers after a frame. -/
def afterFrame : Regs := { tuned with awaitPol := false }

/-- A state with these registers, nothing on the port. -/
def withRegs (r : Regs) : State := { State.reset with regs := r }

/-- A state with these registers and the word `w` on the port. -/
def presenting (r : Regs) (w : CmdWord) : State := { regs := r, cmdPort := [presents w], events := [] }

/-- A state with these registers at a clock edge with `rst = 1`. -/
def resetting (r : Regs) : State := { regs := r, cmdPort := [⟨true, true, 0x4000F4240⟩], events := [] }

/-- V1: the nominal rate, a rate at which a floating-point evaluation is off by one, and the largest rate. -/
theorem test_profiles :
    profileOf 1000000 = ⟨9000, 4500, 550, 1700, 550, 550, 275⟩ ∧ profileOf 6000 = ⟨54, 27, 3, 10, 3, 3, 1⟩ ∧
    profileOf 3637 = ⟨32, 16, 2, 6, 2, 2, 1⟩ ∧
    profileOf 4294967295 = ⟨38654705, 19327352, 2362232, 7301444, 2362232, 2362232, 1181116⟩ := by decide

/-- V1 (d): a realisation that supports one rate only. -/
theorem test_unsupported_rate :
    setrate (· == 1000000) 48000 tuned = { tuned with profile := Profile.zero, profileValid := false } := by decide

/-- V2: the gates. An edge without a profile faults whatever its level; a falling edge first is dropped. -/
theorem test_gates :
    (edge (fun _ => false) 1000 false resetRegs) = ({ resetRegs with fault := true, fcause := 1 }, []) ∧
    (edge (fun _ => false) 500 false tuned) = (tuned, []) := by decide

/-- V3: one pulse pair at the corners of the windows, by the kind and value of its event. -/
theorem test_classification :
    (edge (fun _ => false) (1000 + 8725 + 4225) true (afterHigh 8725)).2 = [⟨.start, 0, 1000, 13950⟩] ∧
    (edge (fun _ => false) (1000 + 8724 + 4500) true (afterHigh 8724)).2 = [] ∧
    (edge (fun _ => false) (1000 + 275 + 1425) true (afterHigh 275)).2 = [⟨.bit, 1, 1000, 2700⟩] ∧
    (edge (fun _ => false) (1000 + 825 + 825) true (afterHigh 825)).2 = [⟨.bit, 0, 1000, 2650⟩] ∧
    (edge (fun _ => false) (1000 + 550 + 826) true (afterHigh 550)).2 = [] := by decide

/-- V5, the first two rows, at the closing edge of the window: the last byte and the frame event. -/
theorem test_frame :
    ((edge (fun _ => true) (1000 + 550 + 1700) true (holding 31 0xCA3412EC 550)).2.drop 4).map Event.word =
      [0x3ED0000000000000CB2, 0x6120000000000000CB2] ∧
    ((edge (fun _ => false) (1000 + 550 + 1700) true (holding 31 0xCA3412EC 550)).2.drop 5).map Event.word =
      [0x5120000000000000CB2] := by decide

/-- V6 (a), (b) and (d): `append_bit` by itself. -/
theorem test_append_bit :
    (tuned.appendBit true 14500 16750).acc = 0x80000000 ∧ (tuned.appendBit true 14500 16750).bstart.b0 = 14500 ∧
    ((holding 7 0xCA000000 0).appendBit false 26800 27900).bend.b0 = 27900 ∧
    ((holding 31 0xCA3412EC 0).appendBit true 64700 66950).acc = 0xCA3412ED := by decide

/-- V7: the reserved opcode and NOP change nothing, with a fault and without; `rst` restores. -/
theorem test_idle_commands :
    step (presenting tuned 0xFFFFFFFFF) = .next { regs := tuned, cmdPort := [], events := [] } ∧
    step (presenting tuned.raiseSampleRateMissing 0x3FFFFFFFF) =
      .next { regs := tuned.raiseSampleRateMissing, cmdPort := [], events := [] } := ⟨rfl, rfl⟩

/-- The host's question: a table word placed for the next step runs as the first command after reset. -/
theorem test_withFetchWord :
    step (State.reset.withFetchWord 40 0x4000F4240) = exec (.setrate 1000000) State.reset := rfl

/-! ### Hypotheses that can be met: one theorem per statement of Obligations.lean that has hypotheses -/

/-- `DecodingIsByOpcodeAlone`: the first and the last word of each opcode. -/
theorem witness_opcodes :
    (0x000000000 : CmdWord).toNat / 2 ^ (Config.DATA_W + 2) = 0 ∧ (0x3FFFFFFFF : CmdWord).toNat / 2 ^ (Config.DATA_W + 2) = 0 ∧
    (0x400000000 : CmdWord).toNat / 2 ^ (Config.DATA_W + 2) = 1 ∧ (0x7FFFFFFFF : CmdWord).toNat / 2 ^ (Config.DATA_W + 2) = 1 ∧
    (0x800000000 : CmdWord).toNat / 2 ^ (Config.DATA_W + 2) = 2 ∧ (0xBFFFFFFFF : CmdWord).toNat / 2 ^ (Config.DATA_W + 2) = 2 ∧
    (0xC00000000 : CmdWord).toNat / 2 ^ (Config.DATA_W + 2) = 3 ∧ (0xFFFFFFFFF : CmdWord).toNat / 2 ^ (Config.DATA_W + 2) = 3 := by
  decide

/-- `EventWordsRoundTrip`: a word of a produced kind, and the two kinds that are never produced. -/
theorem witness_event_words :
    Event.ofWord 0x61200000000FFFFFFFF = some (⟨.frameKnown, 0x12, 0, 0xFFFFFFFF⟩ : Event) ∧
    (0x0FFFFFFFFFFFFFFFFFF : EventWord).toNat / 2 ^ (8 + Config.TSW + Config.TSW) = 0 ∧
    (0x70000000000000000FF : EventWord).toNat / 2 ^ (8 + Config.TSW + Config.TSW) = 7 := by decide

/-- `NotationExpandsAsWritten`: the largest operand of each kind of line, the largest sum of a `PULSE`, and a line with
commands. -/
theorem witness_notation :
    0xFFFFFFFF < 2 ^ Config.RATE_W ∧ 0xFFFFFFFF < 2 ^ Config.TSW ∧ 0xFFFFFFFD + 1 + 1 < 2 ^ Config.TSW ∧
    .edge 0xFFFFFFFF true ∈ assembleLine (.pulse 0xFFFFFFFD 1 1) := by decide

/-- `StepRunsAcceptedCommand`. -/
theorem witness_accepted :
    (presenting tuned 0x9000003E8).cmdPort = presents 0x9000003E8 :: [] ∧
    (presents 0x9000003E8 : PortEdge).rst = false ∧ (presents 0x9000003E8 : PortEdge).cmdValid = true := ⟨rfl, rfl, rfl⟩

/-- `ResetEdgeRestoresEveryRegister`: the reset edge of a machine that has faulted, with a command presented as well. -/
theorem witness_reset_edge :
    (resetting tuned.raiseSampleRateMissing).cmdPort = ⟨true, true, 0x4000F4240⟩ :: [] ∧
    (⟨true, true, 0x4000F4240⟩ : PortEdge).rst = true := ⟨rfl, rfl⟩

/-- `NoCommandChangesNothing`: both clauses. -/
theorem witness_no_command :
    (withRegs tuned).cmdPort = [] ∧
    ({ withRegs tuned with cmdPort := [⟨false, false, 0x9000003E8⟩] } : State).cmdPort = ⟨false, false, 0x9000003E8⟩ :: [] ∧
    (⟨false, false, 0x9000003E8⟩ : PortEdge).rst = false ∧ (⟨false, false, 0x9000003E8⟩ : PortEdge).cmdValid = false :=
  ⟨rfl, rfl, rfl, rfl⟩

/-- `ResetForgetsThePast`: two different machines at one reset edge. -/
theorem witness_two_pasts :
    (resetting tuned).regs ≠ (resetting (holding 31 0xCA3412EC 550)).regs ∧
    (resetting tuned).cmdPort = ⟨true, true, 0x4000F4240⟩ :: [] ∧
    (resetting (holding 31 0xCA3412EC 550)).cmdPort = ⟨true, true, 0x4000F4240⟩ :: [] := by decide

/-- The invariants hold of a tuned machine in `IDLE`. -/
theorem inv_of_idle (awaitPol : Bool) : Regs.Inv { tuned with awaitPol := awaitPol } where
  nbits_le := by change (0 : BitVec 6).toNat ≤ 31; decide
  idle_iff_nref := by change FsmState.idle = .idle ↔ (0 : BitVec 2) = 0; decide
  start_nref := by change FsmState.idle = .start → (0 : BitVec 2) = 1; decide
  got_nref := by change FsmState.idle = .gotLow ∨ FsmState.idle = .gotHigh → (0 : BitVec 2) = 2; decide
  idle_clear := fun _ => ⟨rfl, rfl, rfl, rfl⟩
  gotHigh_lo := fun _ => rfl
  profile_of_rate := ⟨1000000, rfl⟩
  valid_profile := fun _ => ⟨1000000, by decide, by decide, rfl⟩
  fault_iff_fcause := by change false = true ↔ (0 : BitVec 2) = 1; decide
  fcause_code := .inl rfl
  acc_unfilled := fun i _ => BitVec.getLsbD_zero
  idle_nbits := fun _ => rfl

/-- The invariants hold of a machine one bit short of a window, at the largest `nbits` they allow. -/
theorem inv_of_holding : Regs.Inv (holding 31 0xCA3412EC 550) where
  nbits_le := by decide
  idle_iff_nref := by decide
  start_nref := by decide
  got_nref := by decide
  idle_clear := fun h => absurd h (by decide)
  gotHigh_lo := fun _ => rfl
  profile_of_rate := ⟨1000000, rfl⟩
  valid_profile := fun _ => ⟨1000000, by decide, by decide, rfl⟩
  fault_iff_fcause := by decide
  fcause_code := .inl rfl
  acc_unfilled := fun i h => by
    obtain rfl : i = 0 := by
      have : (holding 31 0xCA3412EC 550).nbits.toNat = 31 := rfl
      omega
    rfl
  idle_nbits := fun h => absurd h (by decide)

theorem alternates_of_holding : Regs.Alternates (holding 31 0xCA3412EC 550) where
  gotLow_awaits_falling := fun h => absurd h (by decide)
  gotHigh_measured := fun _ => by decide
  gotLow_measured := fun h => absurd h (by decide)

/-- `StepKeepsRegisterInvariants`, `StepKeepsAlternation`, `EventsPerCommand`: the closing edge of a window. -/
theorem witness_invariants :
    (presenting (holding 31 0xCA3412EC 550) 0x900000CB2).regs.Inv ∧
    (presenting (holding 31 0xCA3412EC 550) 0x900000CB2).regs.Alternates ∧
    ∃ t, step (presenting (holding 31 0xCA3412EC 550) 0x900000CB2) = .next t :=
  ⟨inv_of_holding, alternates_of_holding, _, rfl⟩

/-- `SetrateLoadsTheProfile`: a realisation that supports one rate only, and for `exec` the smallest and the largest rate. -/
theorem witness_setrate :
    (resetRegs.fault = false ∧ (1000000 : Count) ≠ 0 ∧ (fun rate : Count => rate == 1000000) 1000000 = true) ∧
    (withRegs resetRegs).regs.fault = false ∧ (1 : Count) ≠ 0 ∧ (0xFFFFFFFF : Count) ≠ 0 := by decide

/-- `SetrateWithoutRateInvalidates`: rate 0, and a rate that a realisation does not support. -/
theorem witness_no_rate :
    tuned.fault = false ∧ ((0 : Count) = 0 ∨ (fun _ : Count => true) 0 = false) ∧
    ((48000 : Count) = 0 ∨ (fun rate : Count => rate == 1000000) 48000 = false) ∧
    (withRegs tuned).regs.fault = false := by decide

/-- `ProfileFunctionProperties`: two rates in order, and the last rate of each of its three ranges. -/
theorem witness_rates :
    (999999 : Count) ≤ 1000000 ∧ (111 : Count).toNat ≤ 111 ∧ (1818 : Count).toNat ≤ 1818 ∧ (3636 : Count).toNat ≤ 3636 := by
  decide

/-- `ProfileChangesOnlyBySetrate`: a step that changes the LUT, and one that clears `profile_valid`. -/
theorem witness_profile_changes :
    (∃ t, step (presenting resetRegs 0x4000F4240) = .next t ∧ t.regs.profile ≠ resetRegs.profile) ∧
    (∃ t, step (resetting tuned) = .next t ∧ t.regs.profileValid ≠ tuned.profileValid) :=
  ⟨⟨_, rfl, by decide⟩, ⟨_, rfl, by decide⟩⟩

/-- `EdgeWithoutProfileRaisesFault`, and a machine already halted for `HaltedBlockDiscardsCommands`. -/
theorem witness_fault :
    (withRegs resetRegs).regs.fault = false ∧ (withRegs resetRegs).regs.profileValid = false ∧
    (withRegs tuned.raiseSampleRateMissing).regs.fault = true := by decide

/-- `FaultArisesOnlyFromEdgeWithoutProfile`: a step that raises the fault. -/
theorem witness_fault_arises :
    (presenting resetRegs 0x8000003E8).regs.fault = false ∧
    ∃ t, step (presenting resetRegs 0x8000003E8) = .next t ∧ t.regs.fault = true := ⟨rfl, _, rfl, rfl⟩

/-- `FaultEndsOnlyByReset`. -/
theorem witness_fault_ends :
    (resetting tuned.raiseSampleRateMissing).regs.fault = true ∧
    ∃ t, step (resetting tuned.raiseSampleRateMissing) = .next t ∧ t.regs.fault = false := ⟨rfl, _, rfl, rfl⟩

/-- `DroppedEdgeChangesNothing`, `IdleArmRecordsFirstReference`: a falling and a rising edge where a rising one is awaited. -/
theorem witness_idle_arm :
    (withRegs tuned).regs.fault = false ∧ (withRegs tuned).regs.profileValid = true ∧
    false ≠ (withRegs tuned).regs.awaitPol ∧ true = (withRegs tuned).regs.awaitPol ∧
    (withRegs tuned).regs.state = .idle := by decide

/-- The registers after the first edge at `ts`. -/
def started (ts : Timestamp) : Regs := tuned.recordFirst ts

/-- The registers after a pulse pair, with a full count of bits short of one. -/
def afterLow : Regs := { holding 31 0xCA3412EC 550 with state := .gotLow, awaitPol := false }

/-- `HighPhaseIsStored`: a falling edge in `START`, a falling edge in `GOT_LOW` with `nbits` at its bound, and a rising edge in
`START` after a frame. -/
theorem witness_high_phase :
    ((started 1000).fault = false ∧ (started 1000).profileValid = true ∧ false = (started 1000).awaitPol ∧
      (started 1000).state ≠ .idle ∧ (started 1000).nbits.toNat ≤ 31) ∧
    (afterLow.fault = false ∧ afterLow.profileValid = true ∧ false = afterLow.awaitPol ∧ afterLow.state ≠ .idle ∧
      afterLow.nbits.toNat ≤ 31) ∧
    (true = (afterFrame.recordFirst 1000).awaitPol ∧ (afterFrame.recordFirst 1000).state = .start ∧
      (afterFrame.recordFirst 1000).fault = false ∧ (afterFrame.recordFirst 1000).profileValid = true ∧
      (afterFrame.recordFirst 1000).nbits.toNat ≤ 31) := by decide

/-- What the statements about a completed low phase ask of a state, whatever the pair of distances. -/
abbrev lowPhaseReady (s : State) : Prop :=
  s.regs.fault = false ∧ s.regs.profileValid = true ∧ s.regs.awaitPol = true ∧ s.regs.state ≠ .idle ∧ s.regs.state ≠ .start

/-- `UnmatchedPulseIsDropped`: the source's example, and one sample past the START window, with `nbits` at its bound. -/
theorem witness_unmatched :
    lowPhaseReady (withRegs (holding 31 0 550)) ∧ (holding 31 0 550).nbits.toNat ≤ 31 ∧
    (holding 31 0 550).profile.ReadsNothing (holding 31 0 550).hiDistance (2550 - (holding 31 0 550).ref0) ∧
    lowPhaseReady (withRegs (holding 31 0 9276)) ∧
    (holding 31 0 9276).profile.ReadsNothing (holding 31 0 9276).hiDistance (14776 - (holding 31 0 9276).ref0) := by decide

/-- `StartMarkerLeavesTheAccumulator`: both lower and both upper bounds of the START window. -/
theorem witness_start_marker :
    lowPhaseReady (withRegs (holding 31 0 8725)) ∧ (holding 31 0 8725).nbits.toNat ≤ 31 ∧
    (holding 31 0 8725).profile.Fits .start (holding 31 0 8725).hiDistance (13950 - (holding 31 0 8725).ref0) ∧
    lowPhaseReady (withRegs (holding 31 0 9275)) ∧
    (holding 31 0 9275).profile.Fits .start (holding 31 0 9275).hiDistance (15050 - (holding 31 0 9275).ref0) := by decide

/-- `AcceptedBitIsStored`: a 1 and a 0 at the corners of their windows, with 0 and with 30 bits held. -/
theorem witness_bit :
    lowPhaseReady (withRegs (holding 0 0 275)) ∧ (holding 0 0 275).nbits.toNat ≤ 30 ∧
    (holding 0 0 275).profile.ReadsBit true (holding 0 0 275).hiDistance (2700 - (holding 0 0 275).ref0) ∧
    lowPhaseReady (withRegs (holding 30 0 825)) ∧ (holding 30 0 825).nbits.toNat ≤ 30 ∧
    (holding 30 0 825).profile.ReadsBit false (holding 30 0 825).hiDistance (2650 - (holding 30 0 825).ref0) := by decide

/-- `ThirtySecondBitCompletesTheFrame`: the last bit of `0xCA3412ED`. -/
theorem witness_frame :
    lowPhaseReady (withRegs (holding 31 0xCA3412EC 550)) ∧ (holding 31 0xCA3412EC 550).nbits = 31 ∧
    (holding 31 0xCA3412EC 550).profile.ReadsBit true (holding 31 0xCA3412EC 550).hiDistance
      (3250 - (holding 31 0xCA3412EC 550).ref0) ∧
    (0xCA3412ED : BitVec 32).getLsbD 0 = true ∧
    ∀ i, 0 < i → (0xCA3412ED : BitVec 32).getLsbD i = (holding 31 0xCA3412EC 550).acc.getLsbD i := by
  refine ⟨by decide, by decide, by decide, by decide, fun i hi => ?_⟩
  by_cases h : i < 32
  · exact (by decide : ∀ i : Fin 32, 0 < i.val →
      (0xCA3412ED : BitVec 32).getLsbD i = (holding 31 0xCA3412EC 550).acc.getLsbD i) ⟨i, h⟩ hi
  · rw [BitVec.getLsbD_of_ge _ _ (by omega), BitVec.getLsbD_of_ge _ _ (by omega)]

/-- `NextStateTable`: each of the eight rows' states and levels, consumed. -/
theorem witness_next_state :
    ((started 0).consumes false = true ∧ (afterFrame.recordFirst 0).consumes true = true) ∧
    (tuned.consumes true = true ∧ afterFrame.consumes false = true) ∧
    ((afterHigh 550).consumes true = true ∧ ({ afterHigh 550 with awaitPol := false } : Regs).consumes false = true) ∧
    (afterLow.consumes false = true ∧ ({ afterLow with awaitPol := true } : Regs).consumes true = true) ∧
    afterLow.nbits.toNat ≤ 31 := by decide

/-- `AwaitedPolarityFlipsWithConsumedEdges`: a step that flips it, and a reset edge that sets it. -/
theorem witness_polarity :
    (∃ t, step (presenting tuned 0x9000003E8) = .next t ∧ t.regs.awaitPol ≠ tuned.awaitPol) ∧
    (∃ t, step (resetting afterFrame) = .next t ∧ t.regs.awaitPol ≠ afterFrame.awaitPol) := by
  refine ⟨⟨_, rfl, ?_⟩, ⟨_, rfl, ?_⟩⟩ <;> decide

/-- The registers of `afterHigh` meet the alternation invariant, whatever the accumulator holds. -/
theorem alternates_of_start_pulse : Regs.Alternates (holding 31 0 8725) where
  gotLow_awaits_falling := fun h => absurd h (by decide)
  gotHigh_measured := fun _ => by decide
  gotLow_measured := fun h => absurd h (by decide)

/-- `BitIsReadFromThreeEdges`: a pair that reads as a bit and one that fits nothing, with `nbits` at its bound. -/
theorem witness_three_edges :
    (holding 31 0xCA3412EC 550).Alternates ∧ lowPhaseReady (withRegs (holding 31 0xCA3412EC 550)) ∧
    (holding 31 0xCA3412EC 550).nbits.toNat ≤ 31 ∧
    (holding 31 0xCA3412EC 550).profile.ReadsBit true
      ((holding 31 0xCA3412EC 550).ref0 - (holding 31 0xCA3412EC 550).ref1) (3250 - (holding 31 0xCA3412EC 550).ref0) ∧
    (holding 31 0xCA3412EC 550).profile.ReadsNothing
      ((holding 31 0xCA3412EC 550).ref0 - (holding 31 0xCA3412EC 550).ref1) (2550 - (holding 31 0xCA3412EC 550).ref0) :=
  ⟨alternates_of_holding, by decide, by decide, by decide, by decide⟩

/-- `BitIsReadFromThreeEdges`: a Start marker. -/
theorem witness_three_edges_start :
    (holding 31 0 8725).Alternates ∧ lowPhaseReady (withRegs (holding 31 0 8725)) ∧ (holding 31 0 8725).nbits.toNat ≤ 31 ∧
    (holding 31 0 8725).profile.Fits .start
      ((holding 31 0 8725).ref0 - (holding 31 0 8725).ref1) (13950 - (holding 31 0 8725).ref0) :=
  ⟨alternates_of_start_pulse, by decide, by decide, by decide⟩

/-- `FirstPulseAfterFrameIsSkipped`. -/
theorem witness_after_frame :
    (withRegs afterFrame).regs.Inv ∧ (withRegs afterFrame).regs.fault = false ∧
    (withRegs afterFrame).regs.profileValid = true ∧ (withRegs afterFrame).regs.state = .idle ∧
    (withRegs afterFrame).regs.awaitPol = false := ⟨inv_of_idle false, rfl, rfl, rfl, rfl⟩

/-- `DistanceIsExactUnderHostObligation`: the shortest and the longest gap, the second across the wrap. -/
theorem witness_host_times :
    HostTimes 5000 5000 ∧ HostTimes 5000 (5000 + (2 ^ Config.TSW - 1)) ∧ HostTimes 3 4 1 := by decide

/-- `RangeIsTheClosedInterval`: the smallest expected value of each clause. -/
theorem witness_range : (275 : Nat) ≤ 275 ∧ (275 : Nat) < 276 := by decide

/-- `PatternWindowsByRate`: the first and the last rate of each clause, with a pair that fits. -/
theorem witness_windows :
    ((589 : Count) ≤ 589 ∧ (profileOf 589).Fits .bit1 (0 : Timestamp) 1) ∧ (589 : Count) ≤ 0xFFFFFFFF ∧
    ((112 : Count) ≤ 112 ∧ (112 : Count) ≤ 588 ∧ (588 : Count) ≤ 588 ∧ (profileOf 588).Fits .bit0 (0 : Timestamp) 0) ∧
    ((1 : Count) ≤ 1 ∧ (1 : Count) ≤ 111 ∧ (111 : Count) ≤ 111) := by decide

/-- `VerdictTable`: a window for each row of the table. -/
theorem witness_verdict :
    hdrOk 0xCB3412ED = false ∧ (hdrOk 0xCA3412EC = true ∧ sumOk 0xCA3412EC = false) ∧
    (hdrOk 0xCA3412ED = true ∧ sumOk 0xCA3412ED = true ∧
      (fun code : Byte => code == 0x0E) ((0xCA3412ED : BitVec 32).extractLsb' 8 8) = false ∧
      (fun code : Byte => code == 0x12) ((0xCA3412ED : BitVec 32).extractLsb' 8 8) = true) := by decide

/-- `AccumulatorRefinesBitSequence`: the empty sequence, and one bit, first in and so the most significant. -/
theorem witness_represents :
    resetRegs.nbits.toNat ≤ 31 ∧ resetRegs.Represents [] ∧
    (tuned.appendBit true 14500 16750).Represents [⟨true, 14500, 16750⟩] := by
  refine ⟨by decide, ⟨rfl, ?_, ?_, ?_⟩, ⟨rfl, ?_, ?_, ?_⟩⟩ <;> decide

/-- `UnreadRegistersNeverShow`: two machines that differ in a register that is not meaningful. -/
theorem witness_outlook :
    afterLow.SameOutlook { afterLow with hiDistance := 0, loDistance := 7, ref1 := 9 } ∧
    afterLow ≠ { afterLow with hiDistance := 0, loDistance := 7, ref1 := 9 } := by
  refine ⟨⟨rfl, rfl, rfl, rfl, rfl, rfl, rfl, rfl, rfl, rfl, fun _ => rfl, ?_⟩, by decide⟩
  intro _ _ h
  exact absurd h (by decide)

/-- `ClockedPortsRefineTheSteps`: clock edges without a reset, one of them in a cycle in which an event is on `evt`; and one
with. -/
theorem witness_clock_edges :
    (∀ e ∈ [presents 0x9000038A4, presents 0x4000F4240, (⟨false, false, 0⟩ : PortEdge)], e.rst = false) ∧
    (⟨true, true, 0x4000F4240⟩ : PortEdge).rst = true := by decide

/-- The reference timing loses an event to a reset (spec/70_reset_and_hazards.md R233): the last two of three are never shown. -/
theorem test_reset_loses_events :
    clockShown Config.params [⟨true, true, 0x4000F4240⟩, ⟨false, false, 0⟩]
        { regs := tuned, pending := [⟨.byte, 1, 0, 0⟩, ⟨.byte, 2, 0, 0⟩, ⟨.byte, 3, 0, 0⟩] } =
      [⟨.byte, 1, 0, 0⟩] := by decide

/-! ### Other parameters -/

/-- A realisation with narrow timestamps, wide rates, one supported rate and one known code. -/
def small : Params where
  tsw := 8
  rateW := 20
  cmdKnown := (· == 0x12)
  rateSupported := (· == 44100)

/-- spec/30_encoding.md R91: its command words have 24 bits, with `op` in bits 23 and 22, and its event words 27. -/
theorem test_small_words :
    small.wf = true ∧ Config.cmdW small.tsw small.rateW = 24 ∧ Config.evtW small.tsw = 27 ∧
    (decodeCommand 0x40AC44 : Command 8 20) = .setrate 44100 ∧ (decodeCommand 0x9000FF : Command 8 20) = .edge 255 true ∧
    (Command.edge 255 true : Command 8 20).word = 0x9000FF := by decide

/-- V1 and V1 (d) at those parameters. -/
theorem test_small_setrate :
    (small.accept (.setrate 44100) Regs.reset).1.profile = ⟨396, 198, 24, 74, 24, 24, 12⟩ ∧
    (small.accept (.setrate 48000) Regs.reset).1.profileValid = false := by decide

/-- `FixedNamesAreTheDefaultRealisation`: a clock edge on the port. -/
theorem witness_port : (presenting tuned 0x9000003E8).cmdPort = presents 0x9000003E8 :: [] := rfl

/-- `EveryWidthDecodesWhatItEncodes`: a SETRATE and an EDGE with their largest operands and every ignored bit set. -/
theorem witness_widths :
    (decodeCommand 0x7FFFFF : Command 8 20) = .setrate 0xFFFFF ∧ (decodeCommand 0xBFFFFF : Command 8 20) = .edge 0xFF true ∧
    (decodeCommand 0x800000 : Command 8 20) = .edge 0 false := by decide

/-- `EveryRealisationKeepsTheInvariants`: the registers at the closing edge of a window meet both invariants at the default
parameters. -/
theorem witness_realisation_invariants :
    Regs.InvFor (tsw := Config.params.tsw) Config.params.rateSupported (holding 31 0xCA3412EC 550) ∧
    (holding 31 0xCA3412EC 550).Alternates := ⟨inv_of_holding, alternates_of_holding⟩

/-- The registers of `small` after `SETRATE 44100`. -/
def smallTuned : Regs small.tsw small.rateW := Regs.reset.writeProfile (profileOf 44100 20) true

/-- `EveryRealisationHasTheGates`: a halted machine, a supported and an unsupported rate, an EDGE without a profile, and in
`IDLE` one that is dropped and one that is consumed. -/
theorem witness_gates :
    smallTuned.raiseSampleRateMissing.fault = true ∧
    (smallTuned.fault = false ∧ ((0 : Count 20) = 0 ∨ small.rateSupported 0 = false) ∧
      ((48000 : Count 20) = 0 ∨ small.rateSupported 48000 = false)) ∧
    ((44100 : Count 20) ≠ 0 ∧ small.rateSupported 44100 = true) ∧
    ((Regs.reset : Regs small.tsw small.rateW).fault = false ∧ (Regs.reset : Regs small.tsw small.rateW).profileValid = false) ∧
    (smallTuned.profileValid = true ∧ false ≠ smallTuned.awaitPol ∧ true = smallTuned.awaitPol ∧
      smallTuned.state = .idle) := by decide

end Sys2Proof.Tests
end

section
/-!
The scope rules of spec/00_scope.md: the fixed names of the model as PWC at the default parameters (R7), the closed interval of
the range comparison (R11), and at any parameters the commands that measure nothing.
-/

namespace Sys2Proof

/-! ### Instructions and commands at the default widths -/

@[simp] theorem Instr.instr_command (i : Instr) : i.command.instr = i := by
  cases i <;> rfl

@[simp] theorem Command.command_instr (c : Command Config.TSW Config.RATE_W) : c.instr.command = c := by
  cases c <;> rfl

@[simp] theorem command_decode (w : CmdWord) : (decode w).command = decodeCommand w :=
  (decodeCommand w).command_instr

theorem Config.RATE_SUPPORTED_iff (rate : Count) : Config.RATE_SUPPORTED rate = true ↔ rate ≠ 0 := bne_iff_ne

namespace Machine

/-! ### The fixed names as a realisation -/

@[simp] theorem State.commit_no_events (s : State) (r : Regs) : s.commit (r, []) = { s with regs := r } := by
  simp [State.commit]

/-- `exec` is the accepted command of the default realisation, with its registers and events written back. -/
theorem exec_eq_accept (i : Instr) (s : State) :
    exec i s = .next (s.commit (Config.params.accept i.command s.regs)) := by
  cases i with
  | nop => exact congrArg _ (s.commit_no_events s.regs).symm
  | setrate rate => exact congrArg _ (s.commit_no_events (setrate Config.RATE_SUPPORTED rate s.regs)).symm
  | edge ts level => rfl
  | reserved3 => exact congrArg _ (s.commit_no_events s.regs).symm

/-- A step with a clock edge on the port is that edge of the default realisation. -/
theorem step_eq_tick (s : State) (e : PortEdge) (rest : List PortEdge) (h : s.cmdPort = e :: rest) :
    step s =
      .next
        { regs := (Config.params.tick e s.regs).1
          cmdPort := rest
          events := s.events ++ (Config.params.tick e s.regs).2 } := by
  unfold step
  cases hr : e.rst with
  | true => simp [nextAction_rst s e rest h hr, Config.params.tick_rst e s.regs hr]
  | false =>
    cases hv : e.cmdValid with
    | false => simp [nextAction_idle s e rest h hr hv, Config.params.tick_idle e s.regs hr hv]
    | true =>
      rw [nextAction_accepted s e rest h hr hv, Config.params.tick_accepted e s.regs hr hv]
      simp only [exec_eq_accept, command_decode, State.commit]

/-- As many steps as there are clock edges on the port are the run of the default realisation over them. -/
theorem coreRun_eq_run (edges : List PortEdge) (r : Regs) (events : List Event) :
    Host.Core.run core edges.length { regs := r, cmdPort := edges, events := events } =
      .next { regs := (Config.params.run edges r).1, cmdPort := [], events := events ++ (Config.params.run edges r).2 } := by
  induction edges generalizing r events with
  | nil =>
    rw [Params.run_nil, List.append_nil]
    exact run_zero _
  | cons e rest ih =>
    rw [List.length_cons, run_succ_of_next _ _ _ (step_eq_tick _ e rest rfl), ih, Params.run_cons, List.append_assoc]

/-- Settles O54: each conjunct is one of the lemmas above, the run by induction on the clock edges. -/
theorem fixedNamesAreTheDefaultRealisation : Obligations.FixedNamesAreTheDefaultRealisation :=
  ⟨⟨rfl, rfl, rfl, Config.RATE_SUPPORTED_iff⟩, command_decode, fun i => ⟨rfl, i.instr_command⟩, exec_eq_accept, step_eq_tick,
    coreRun_eq_run⟩

/-! ### The range comparison -/

/-- Settles O41: over the integers by definition; the ends and the value below the lower one by `inRange_iff`, without
subtraction. -/
theorem rangeIsTheClosedInterval : Obligations.RangeIsTheClosedInterval := by
  refine ⟨fun d e m => ?_, fun e m h => ⟨?_, ?_⟩, fun e m h => ?_, by decide⟩
  · simp only [inRange, Bool.and_eq_true, decide_eq_true_eq]
  · rw [inRange_iff]
    omega
  · rw [inRange_iff]
    omega
  · rw [← Bool.not_eq_true, inRange_iff]
    omega

/-! ### What is decided before anything is measured -/

section gates
variable {tsw rateW : Nat} (known : Byte → Bool) (ts : Timestamp tsw) (level : Bool) (r : Regs tsw rateW)

/-- The gate of spec/41_edge_classifier.md R141. -/
theorem edge_of_fault (hf : r.fault = true) : edge known ts level r = (r, []) := by
  simp [edge, hf]

/-- The gate of spec/41_edge_classifier.md R142. -/
theorem edge_of_rateMissing (hf : r.fault = false) (hv : r.profileValid = false) :
    edge known ts level r = (r.raiseSampleRateMissing, []) := by
  simp [edge, Regs.rateMissing, hf, hv]

/-- The gate of spec/41_edge_classifier.md R143. -/
theorem edge_of_drops (hf : r.fault = false) (hv : r.profileValid = true) (hl : level ≠ r.awaitPol) :
    edge known ts level r = (r, []) := by
  simp [edge, Regs.rateMissing, Regs.drops, hf, hv, hl]

/-- The `IDLE` arm of spec/41_edge_classifier.md R144. -/
theorem edge_of_idle (hf : r.fault = false) (hv : r.profileValid = true) (hl : level = r.awaitPol) (hs : r.state = .idle) :
    edge known ts level r = (r.recordFirst ts, []) := by
  simp [edge, Regs.rateMissing, Regs.drops, hf, hv, hl, hs]

end gates

section setrate
variable {tsw rateW : Nat} (supported : Count rateW → Bool) (rate : Count rateW) (r : Regs tsw rateW)

theorem setrate_of_fault (hf : r.fault = true) : setrate supported rate r = r := by
  simp [setrate, hf]

/-- SETRATE of a rate that is not accepted (spec/40_setrate_timing_profile.md R122). -/
theorem setrate_of_refused (hf : r.fault = false) (hr : rate = 0 ∨ supported rate = false) :
    setrate supported rate r = r.writeProfile Profile.zero false := by
  have hok : rateOk supported rate = false := by
    rcases hr with h | h <;> simp [rateOk, h]
  simp [setrate, hf, hok]

/-- SETRATE of an accepted rate (spec/40_setrate_timing_profile.md R120, R121). -/
theorem setrate_of_accepted (hf : r.fault = false) (hz : rate ≠ 0) (hs : supported rate = true) :
    setrate supported rate r = r.writeProfile (profileOf rate.toNat rateW) true := by
  have hok : rateOk supported rate = true := Bool.and_eq_true_iff.2 ⟨bne_iff_ne.2 hz, hs⟩
  simp [setrate, hf, hok]

/-- The profile function gives the record of spec/40_setrate_timing_profile.md R121 for every rate that fits its operand. -/
theorem profileOf_isOf : (profileOf rate.toNat rateW).IsOf rate.toNat := by
  obtain ⟨hsHi, hsLo, hHi, hLo, hm⟩ := profileOf_toNat rate
  exact ⟨hsHi, hsLo, hHi, hLo, profileOf_bit0Hi _, profileOf_bit0Lo _, by rw [hm, hHi]⟩

end setrate

/-- While `fault = 1` every command is discarded (spec/60_exceptions.md R210). -/
theorem accept_of_fault (p : Params) (c : Command p.tsw p.rateW) (r : Regs p.tsw p.rateW) (hf : r.fault = true) :
    p.accept c r = (r, []) := by
  cases c with
  | nop => rfl
  | setrate rate => rw [Params.accept_setrate, setrate_of_fault _ rate r hf]
  | edge ts level => rw [Params.accept_edge, edge_of_fault _ ts level r hf]
  | reserved3 => rfl

/-- Settles O57: each gate by the lemma of its rule. -/
theorem everyRealisationHasTheGates : Obligations.EveryRealisationHasTheGates := by
  intro p r
  refine ⟨⟨rfl, rfl⟩, fun hf c => accept_of_fault p c r hf, fun hf rate hr => ?refused, fun hf rate hz hs => ?accepted,
    fun ts level hf => ⟨?rateMissing, ?dropped, ?first⟩⟩
  case refused =>
    rw [Params.accept_setrate, setrate_of_refused p.rateSupported rate r hf hr]
    rfl
  case accepted =>
    refine ⟨profileOf rate.toNat p.rateW, ?_, profileOf_isOf rate⟩
    rw [Params.accept_setrate, setrate_of_accepted p.rateSupported rate r hf hz hs]
    rfl
  case rateMissing => exact edge_of_rateMissing p.cmdKnown ts level r hf
  case dropped => exact edge_of_drops p.cmdKnown ts level r hf
  case first => exact edge_of_idle p.cmdKnown ts level r hf

end Machine
end Sys2Proof
end

section
/-!
What a command, a clock edge and a step do to the registers, in every state and at any parameters: the rules that the facts
about the registers of spec/10_state.md are proved by.
-/

namespace Sys2Proof

open Machine

namespace Machine
variable {tsw rateW : Nat}

/-! ### EDGE, whatever `nbits` holds -/

theorem Regs.consumes_iff (r : Regs tsw rateW) (level : Bool) :
    r.consumes level = true ↔ r.fault = false ∧ r.profileValid = true ∧ level = r.awaitPol := by
  simp [Regs.consumes, and_assoc]

/-- An edge that is not consumed is discarded or raises the fault (spec/41_edge_classifier.md R141 to R143). -/
theorem edge_of_not_consumes (known : Byte → Bool) (ts : Timestamp tsw) (level : Bool) (r : Regs tsw rateW)
    (h : r.consumes level = false) :
    edge known ts level r = (r, []) ∨ edge known ts level r = (r.raiseSampleRateMissing, []) := by
  cases hf : r.fault with
  | true => exact .inl (edge_of_fault known ts level r hf)
  | false =>
    cases hv : r.profileValid with
    | false => exact .inr (edge_of_rateMissing known ts level r hf hv)
    | true =>
      have hl : level ≠ r.awaitPol := fun hl => by simp [(r.consumes_iff level).2 ⟨hf, hv, hl⟩] at h
      exact .inl (edge_of_drops known ts level r hf hv hl)

/-- The registers that an EDGE can leave, with the conditions of each case. Unlike `EdgeOutcome` it asks nothing of `nbits`. -/
inductive EdgeRegs (ts : Timestamp tsw) (level : Bool) (r : Regs tsw rateW) : Regs tsw rateW → Prop
  | discarded (h : r.consumes level = false) : EdgeRegs ts level r r
  | rateMissing (h : r.consumes level = false) : EdgeRegs ts level r r.raiseSampleRateMissing
  | first (h : r.consumes level = true) : EdgeRegs ts level r (r.recordFirst ts)
  | high (h : r.consumes level = true) : EdgeRegs ts level r ((r.assignHigh (distance ts r.ref0)).recordEdge ts)
  | low (h : r.consumes level = true) (hl : level = true) : EdgeRegs ts level r ((r.lowClosed ts).recordEdge ts)
  | bit (v : Bool) (h : r.consumes level = true) (hl : level = true) : EdgeRegs ts level r (r.windowFull v ts)
  | frame (q : Regs tsw rateW) (hq : EdgeRegs ts level r q) : EdgeRegs ts level r q.frameReset

/-- The frame trigger leaves the registers alone or resets the frame. -/
theorem frameTrigger_regs (known : Byte → Bool) (out : Regs tsw rateW × List (Event tsw)) :
    (frameTrigger known out).1 = out.1 ∨ (frameTrigger known out).1 = out.1.frameReset := by
  unfold frameTrigger
  split
  · exact .inr rfl
  · exact .inl rfl

/-- Classification leaves the registers alone or appends one bit. -/
theorem classify_regs (ts : Timestamp tsw) (r : Regs tsw rateW) :
    (classify ts r).1 = r ∨ ∃ v, (classify ts r).1 = r.appendBit v r.ref1 ts := by
  rcases r.profile.reads_cases r.hiDistance r.loDistance with hp | ⟨v, hp⟩ | hp
  · exact .inl (congrArg Prod.fst (classify_of_start ts r hp))
  · exact .inr ⟨v, congrArg Prod.fst (classify_of_readsBit ts r v hp)⟩
  · exact .inl (congrArg Prod.fst (classify_of_readsNothing ts r hp))

/-- A consumed edge outside `IDLE` that closes no low phase (spec/41_edge_classifier.md R146, second case). -/
theorem edge_of_not_closesLow (known : Byte → Bool) (ts : Timestamp tsw) (level : Bool) (r : Regs tsw rateW)
    (h : r.consumes level = true) (hs : r.state ≠ .idle) (hl : r.closesLow level = false) :
    edge known ts level r = frameTrigger known ((r.assignHigh (distance ts r.ref0)).recordEdge ts, []) := by
  simp [edge_of_consumes known ts level r h hs, consumeEdge, assignAndClassify, hl]

theorem Regs.closesLow_iff (r : Regs tsw rateW) (level : Bool) :
    r.closesLow level = true ↔ level = true ∧ r.state ≠ .start := by
  simp [Regs.closesLow]

theorem edge_regs (known : Byte → Bool) (ts : Timestamp tsw) (level : Bool) (r : Regs tsw rateW) :
    EdgeRegs ts level r (edge known ts level r).1 := by
  cases hc : r.consumes level with
  | false =>
    rcases edge_of_not_consumes known ts level r hc with h | h
    · rw [h]
      exact .discarded hc
    · rw [h]
      exact .rateMissing hc
  | true =>
    by_cases hs : r.state = .idle
    · obtain ⟨hf, hv, hp⟩ := (r.consumes_iff level).1 hc
      rw [edge_of_idle known ts level r hf hv hp hs]
      exact .first hc
    have triggered (out : Regs tsw rateW × List (Event tsw)) (ho : EdgeRegs ts level r out.1) :
        EdgeRegs ts level r (frameTrigger known out).1 := by
      rcases frameTrigger_regs known out with h | h
      · rwa [h]
      · rw [h]
        exact .frame _ ho
    cases hl : r.closesLow level with
    | false =>
      rw [edge_of_not_closesLow known ts level r hc hs hl]
      exact triggered _ (.high hc)
    | true =>
      obtain ⟨rfl, hs'⟩ := (r.closesLow_iff level).1 hl
      rw [edge_of_closesLow known ts r hc hs hs']
      apply triggered
      rcases classify_regs ts (r.lowClosed ts) with h | ⟨v, h⟩
      · rw [h]
        exact .low hc rfl
      · rw [h]
        exact .bit v hc rfl

section edgeRegs
variable {ts : Timestamp tsw} {level : Bool} {r q : Regs tsw rateW}

/-- EDGE writes neither the LUT nor `margin` (spec/10_state.md R28, R29). -/
theorem EdgeRegs.profile_eq (h : EdgeRegs ts level r q) : q.profile = r.profile := by
  induction h with
  | frame q _ ih => exact ih
  | _ => rfl

/-- EDGE does not write `profile_valid` (spec/10_state.md R30). -/
theorem EdgeRegs.profileValid_eq (h : EdgeRegs ts level r q) : q.profileValid = r.profileValid := by
  induction h with
  | frame q _ ih => exact ih
  | _ => rfl

/-- A consumed edge inverts `await_pol`; any other leaves it (spec/10_state.md R22). -/
theorem EdgeRegs.awaitPol_eq (h : EdgeRegs ts level r q) :
    q.awaitPol = (if r.consumes level then !r.awaitPol else r.awaitPol) := by
  induction h with
  | discarded h | rateMissing h => simp [h]
  | first h | high h | low h _ | bit _ h _ => simp [h]
  | frame q _ ih => exact ih

end edgeRegs

/-- SETRATE writes the LUT, `margin` and `profile_valid` only. -/
theorem setrate_awaitPol (supported : Count rateW → Bool) (rate : Count rateW) (r : Regs tsw rateW) :
    (setrate supported rate r).awaitPol = r.awaitPol := by
  rcases setrate_cases supported rate r with ⟨_, h⟩ | ⟨_, _, h⟩ | ⟨_, _, h⟩ <;> rw [h] <;> rfl

end Machine

/-! ### Clock edges and steps -/

section keeps
variable (p : Params) {P : Regs p.tsw p.rateW → Prop}

/-- What holds after a reset and is kept by SETRATE and by EDGE is kept by every clock edge. -/
theorem Params.tick_keeps (hreset : P Regs.reset) (hsetrate : ∀ rate r, P r → P (setrate p.rateSupported rate r))
    (hedge : ∀ ts level r, P r → P (edge p.cmdKnown ts level r).1) (e : PortEdge p.tsw p.rateW)
    (r : Regs p.tsw p.rateW) (h : P r) : P (p.tick e r).1 := by
  cases hr : e.rst with
  | true => rwa [p.tick_rst e r hr]
  | false =>
    cases hv : e.cmdValid with
    | false => rwa [p.tick_idle e r hr hv]
    | true =>
      rw [p.tick_accepted e r hr hv]
      cases decodeCommand e.cmd with
      | nop => exact h
      | setrate rate => exact hsetrate rate r h
      | edge ts level => exact hedge ts level r h
      | reserved3 => exact h

/-- What every clock edge keeps, a run over clock edges keeps. -/
theorem Params.run_keeps (htick : ∀ e r, P r → P (p.tick e r).1) (edges : List (PortEdge p.tsw p.rateW))
    (r : Regs p.tsw p.rateW) (h : P r) : P (p.run edges r).1 := by
  induction edges generalizing r with
  | nil => exact h
  | cons e rest ih => exact ih _ (htick e r h)

end keeps

namespace Machine

/-- The registers after a step: unchanged when nothing is on the port, else those after the clock edge. -/
theorem step_regs (s t : State) (h : step s = .next t) :
    t.regs = s.regs ∨ ∃ e rest, s.cmdPort = e :: rest ∧ t.regs = (Config.params.tick e s.regs).1 := by
  cases hp : s.cmdPort with
  | nil =>
    rcases step_cases s t h with ⟨_, rfl⟩ | ⟨e, rest, he, _⟩
    · exact .inl rfl
    · simp [hp] at he
  | cons e rest =>
    rw [step_eq_tick s e rest hp] at h
    injection h with h
    exact .inr ⟨e, rest, rfl, h ▸ rfl⟩

/-- A word that reads as SETRATE, as an instruction. -/
theorem decode_of_setrate {w : CmdWord} {rate : Count} (h : decodeCommand w = .setrate rate) : decode w = .setrate rate :=
  congrArg Command.instr h

/-- A word that reads as EDGE, as an instruction. -/
theorem decode_of_edge {w : CmdWord} {ts : Timestamp} {level : Bool} (h : decodeCommand w = .edge ts level) :
    decode w = .edge ts level := congrArg Command.instr h

end Machine

/-! ### The profile and the awaited polarity -/

section changes
variable (p : Params) (e : PortEdge p.tsw p.rateW) (r : Regs p.tsw p.rateW)

/-- A clock edge that changes the LUT, `margin` or `profile_valid` resets or accepts a SETRATE with `fault = 0`. -/
theorem Params.tick_changes_profile
    (h : (p.tick e r).1.profile ≠ r.profile ∨ (p.tick e r).1.profileValid ≠ r.profileValid) :
    e.rst = true ∨ (r.fault = false ∧ e.cmdValid = true ∧ ∃ rate, decodeCommand e.cmd = .setrate rate) := by
  cases hr : e.rst with
  | true => exact .inl rfl
  | false =>
    cases hv : e.cmdValid with
    | false => simp [p.tick_idle e r hr hv] at h
    | true =>
      rw [p.tick_accepted e r hr hv] at h
      cases hc : decodeCommand e.cmd with
      | nop => simp [hc, Params.accept] at h
      | reserved3 => simp [hc, Params.accept] at h
      | edge ts level =>
        have hregs := edge_regs p.cmdKnown ts level r
        simp [hc, hregs.profile_eq, hregs.profileValid_eq] at h
      | setrate rate =>
        cases hf : r.fault with
        | true => simp [accept_of_fault p _ r hf] at h
        | false => exact .inr ⟨rfl, rfl, rate, rfl⟩

/-- A clock edge that changes `await_pol` resets or accepts an EDGE that is consumed. -/
theorem Params.tick_changes_awaitPol (h : (p.tick e r).1.awaitPol ≠ r.awaitPol) :
    e.rst = true ∨
      ∃ ts level, e.cmdValid = true ∧ decodeCommand e.cmd = .edge ts level ∧ r.consumes level = true := by
  cases hr : e.rst with
  | true => exact .inl rfl
  | false =>
    cases hv : e.cmdValid with
    | false => simp [p.tick_idle e r hr hv] at h
    | true =>
      rw [p.tick_accepted e r hr hv] at h
      cases hc : decodeCommand e.cmd with
      | nop => simp [hc, Params.accept] at h
      | reserved3 => simp [hc, Params.accept] at h
      | setrate rate => simp [hc, setrate_awaitPol] at h
      | edge ts level =>
        rw [hc, p.accept_edge, (edge_regs p.cmdKnown ts level r).awaitPol_eq] at h
        exact .inr ⟨ts, level, rfl, rfl, by_contra fun hn => h (if_neg hn)⟩

end changes

namespace Machine

/-- Settles O22: a step that changes the registers takes a clock edge, and the clock edge is one of `tick_changes_profile`. -/
theorem profileChangesOnlyBySetrate : Obligations.ProfileChangesOnlyBySetrate := by
  intro s t h hne
  rcases step_regs s t h with heq | ⟨e, rest, hp, heq⟩
  · simp [heq] at hne
  · rw [heq] at hne
    refine ⟨e, rest, hp, (Config.params.tick_changes_profile e s.regs hne).imp_right ?_⟩
    rintro ⟨hf, hv, rate, hd⟩
    exact ⟨hf, hv, rate, decode_of_setrate hd⟩

/-- Settles O37: EDGE by `EdgeRegs.awaitPol_eq`, the step by `tick_changes_awaitPol` of its clock edge. -/
theorem awaitedPolarityFlipsWithConsumedEdges : Obligations.AwaitedPolarityFlipsWithConsumedEdges := by
  refine ⟨fun tsw rateW known ts level r => (edge_regs known ts level r).awaitPol_eq, fun s t h hne => ?_⟩
  rcases step_regs s t h with heq | ⟨e, rest, hp, heq⟩
  · exact absurd (congrArg Regs.awaitPol heq) hne
  · rw [heq] at hne
    refine ⟨e, rest, hp, (Config.params.tick_changes_awaitPol e s.regs hne).imp_right ?_⟩
    rintro ⟨ts, level, hv, hd, hc⟩
    exact ⟨ts, level, hv, decode_of_edge hd, hc⟩

/-! ### Reset values and status ports -/

/-- Settles O13: the table of spec/10_state.md R34, register by register. -/
theorem resetValues : Obligations.ResetValues :=
  ⟨rfl, rfl, rfl, rfl, rfl, rfl, rfl, rfl, rfl, rfl, rfl, rfl, rfl, rfl, rfl⟩

theorem ofBool_eq_one_iff (b : Bool) : BitVec.ofBool b = 1 ↔ b = true := by
  cases b <;> decide

/-- The codes of the four states are those of spec/10_state.md R21. -/
theorem FsmState.code_eq_iff (q : FsmState) :
    (q.code = 0 ↔ q = .idle) ∧ (q.code = 1 ↔ q = .start) ∧ (q.code = 2 ↔ q = .gotLow) ∧ (q.code = 3 ↔ q = .gotHigh) := by
  cases q <;> decide

/-- Settles O53: the one-bit ports by `ofBool_eq_one_iff`, `state` by its codes. -/
theorem statusPortsCarryTheRegisters : Obligations.StatusPortsCarryTheRegisters :=
  ⟨fun r => ⟨rfl, rfl, ofBool_eq_one_iff _, ofBool_eq_one_iff _, ofBool_eq_one_iff _, r.state.code_eq_iff⟩, rfl⟩

end Machine
end Sys2Proof
end

section
/-!
The invariants of spec/10_state.md R35 and spec/41_edge_classifier.md R155: the reset registers have them, each operation on the
registers keeps them, and so every clock edge, step and run does.
-/

namespace Sys2Proof

open Machine

namespace Machine
variable {tsw rateW : Nat} {supported : Count rateW → Bool}

/-! ### R35: reset and SETRATE -/

/-- The cleared profile is that of the rate operand 0. -/
theorem profileOf_rate_zero : profileOf (0 : Count rateW).toNat rateW = Profile.zero := by
  rw [show (0 : Count rateW).toNat = 0 from BitVec.toNat_zero, profileOf_zero]

theorem reset_invFor (supported : Count rateW → Bool) : (Regs.reset : Regs tsw rateW).InvFor supported where
  nbits_le := Nat.zero_le _
  idle_iff_nref := iff_of_true rfl rfl
  start_nref := nofun
  got_nref := nofun
  idle_clear _ := ⟨rfl, rfl, rfl, rfl⟩
  gotHigh_lo := nofun
  profile_of_rate := ⟨0, profileOf_rate_zero.symm⟩
  valid_profile := nofun
  fault_iff_fcause := iff_of_false nofun (by decide : (0 : BitVec 2) ≠ 1)
  fcause_code := .inl rfl
  acc_unfilled _ _ := BitVec.getLsbD_zero
  idle_nbits _ := rfl

/-- SETRATE keeps the invariants: it writes the profile only, of the accepted rate or of rate 0. -/
theorem setrate_keeps_invFor {r : Regs tsw rateW} (h : r.InvFor supported) (rate : Count rateW) :
    (setrate supported rate r).InvFor supported := by
  rcases setrate_cases supported rate r with ⟨_, heq⟩ | ⟨_, hok, heq⟩ | ⟨_, _, heq⟩
  · rwa [heq]
  · obtain ⟨hz, hs⟩ := Bool.and_eq_true_iff.1 hok
    rw [heq]
    exact { h with profile_of_rate := ⟨rate, rfl⟩, valid_profile := fun _ => ⟨rate, bne_iff_ne.1 hz, hs, rfl⟩ }
  · rw [heq]
    exact { h with
      profile_of_rate := ⟨0, profileOf_rate_zero.symm⟩
      valid_profile := nofun }

/-! ### R35: the operations of EDGE -/

section edgeOperations
variable {r : Regs tsw rateW}

theorem raiseSampleRateMissing_keeps_invFor (h : r.InvFor supported) : r.raiseSampleRateMissing.InvFor supported :=
  { h with fault_iff_fcause := iff_of_true rfl rfl, fcause_code := .inr rfl }

/-- The first reference, taken in `IDLE`. -/
theorem recordFirst_keeps_invFor (h : r.InvFor supported) (ts : Timestamp tsw) : (r.recordFirst ts).InvFor supported :=
  { h with
    idle_iff_nref := iff_of_false nofun (by decide : (1 : BitVec 2) ≠ 0)
    start_nref := fun _ => rfl
    got_nref := nofun
    idle_clear := nofun
    gotHigh_lo := nofun
    idle_nbits := nofun }

/-- An interval stored in `hi_distance`. -/
theorem assignHigh_recordEdge_keeps_invFor (h : r.InvFor supported) (d ts : Timestamp tsw) :
    ((r.assignHigh d).recordEdge ts).InvFor supported :=
  { h with
    idle_iff_nref := iff_of_false nofun (by decide : (2 : BitVec 2) ≠ 0)
    start_nref := nofun
    got_nref := fun _ => rfl
    idle_clear := nofun
    gotHigh_lo := fun _ => rfl
    idle_nbits := nofun }

/-- An interval stored in `lo_distance`. -/
theorem assignLow_recordEdge_keeps_invFor (h : r.InvFor supported) (d ts : Timestamp tsw) :
    ((r.assignLow d).recordEdge ts).InvFor supported :=
  { h with
    idle_iff_nref := iff_of_false nofun (by decide : (2 : BitVec 2) ≠ 0)
    start_nref := nofun
    got_nref := fun _ => rfl
    idle_clear := nofun
    gotHigh_lo := nofun
    idle_nbits := nofun }

/-- No 6-bit count up to 31 wraps. -/
theorem nbits_succ_toNat (n : BitVec 6) (h : n.toNat ≤ 31) : (n + 1).toNat = n.toNat + 1 := by
  bv_omega

/-- A bit goes to the highest position not yet filled, so those below stay zero. -/
theorem appendBit_keeps_invFor (h : r.InvFor supported) (hs : r.state ≠ .idle) (hn : r.nbits.toNat ≤ 30) (v : Bool)
    (s e : Timestamp tsw) : (r.appendBit v s e).InvFor supported :=
  have hsucc : (r.nbits + 1).toNat = r.nbits.toNat + 1 := nbits_succ_toNat _ h.nbits_le
  { h with
    nbits_le := by
      rw [Regs.appendBit_nbits, hsucc]
      omega
    acc_unfilled := by
      intro i hi
      rw [Regs.appendBit_nbits, hsucc] at hi
      rw [Regs.appendBit_acc, if_pos h.nbits_le, storeBit_getLsbD _ _ v (by omega) i (by omega), if_neg (by omega)]
      exact h.acc_unfilled i (by omega)
    idle_nbits := fun hidle => absurd hidle hs }

theorem frameReset_keeps_invFor (h : r.InvFor supported) : r.frameReset.InvFor supported :=
  { h with
    nbits_le := Nat.zero_le _
    idle_iff_nref := iff_of_true rfl rfl
    start_nref := nofun
    got_nref := nofun
    idle_clear := fun _ => ⟨rfl, rfl, rfl, rfl⟩
    gotHigh_lo := nofun
    acc_unfilled := fun _ _ => BitVec.getLsbD_zero
    idle_nbits := fun _ => rfl }

end edgeOperations

/-- A bit and the recording of its edge write different registers, so their order does not matter. -/
theorem Regs.windowFull_eq (r : Regs tsw rateW) (v : Bool) (ts : Timestamp tsw) :
    r.windowFull v ts = ((r.lowClosed ts).recordEdge ts).appendBit v r.ref1 ts := rfl

/-- The frame reset clears all that a bit writes. -/
theorem Regs.windowFull_frameReset (r : Regs tsw rateW) (v : Bool) (ts : Timestamp tsw) :
    (r.windowFull v ts).frameReset = ((r.lowClosed ts).recordEdge ts).frameReset := rfl

/-- EDGE keeps the invariants of spec/10_state.md R35: each outcome is made of the operations above. -/
theorem edge_keeps_invFor {r : Regs tsw rateW} (h : r.InvFor supported) (known : Byte → Bool) (ts : Timestamp tsw)
    (level : Bool) : (edge known ts level r).1.InvFor supported := by
  have hout := edge_outcome known ts level r h.nbits_le
  have hlow := assignLow_recordEdge_keeps_invFor h (distance ts r.ref0) ts
  generalize edge known ts level r = out at hout ⊢
  cases hout with
  | halted | dropped => exact h
  | rateMissing => exact raiseSampleRateMissing_keeps_invFor h
  | first => exact recordFirst_keeps_invFor h ts
  | high => exact assignHigh_recordEdge_keeps_invFor h _ ts
  | unmatched | startMarker => exact hlow
  | bit v _ _ _ _ hn =>
    rw [Regs.windowFull_eq]
    exact appendBit_keeps_invFor hlow nofun hn v _ ts
  | frame v =>
    rw [Regs.windowFull_frameReset]
    exact frameReset_keeps_invFor hlow

/-! ### R155 -/

theorem reset_alternates : (Regs.reset : Regs tsw rateW).Alternates := ⟨nofun, nofun, nofun⟩

theorem setrate_keeps_alternates {r : Regs tsw rateW} (h : r.Alternates) (supported : Count rateW → Bool)
    (rate : Count rateW) : (setrate supported rate r).Alternates := by
  rcases setrate_cases supported rate r with ⟨_, heq⟩ | ⟨_, _, heq⟩ | ⟨_, _, heq⟩ <;> rw [heq] <;> exact { h with }

/-- An edge that closes a low phase was awaited as a rising one, so a falling one is awaited after it; the interval stored is
that between the two edges then recorded. -/
theorem EdgeRegs.alternates {ts : Timestamp tsw} {level : Bool} {r q : Regs tsw rateW} (hq : EdgeRegs ts level r q)
    (h : r.Alternates) : q.Alternates := by
  induction hq with
  | discarded => exact h
  | rateMissing => exact { h with }
  | first => exact ⟨nofun, nofun, nofun⟩
  | high => exact ⟨nofun, fun _ => rfl, nofun⟩
  | low hc hl | bit _ hc hl =>
    have hp : r.awaitPol = true := ((r.consumes_iff level).1 hc).2.2 ▸ hl
    exact ⟨fun _ => congrArg Bool.not hp, nofun, fun _ => rfl⟩
  | frame => exact ⟨nofun, nofun, nofun⟩

/-! ### Clock edges, steps and runs -/

/-- Every clock edge keeps the invariants of spec/10_state.md R35. -/
theorem tick_keeps_invFor (p : Params) (e : PortEdge p.tsw p.rateW) (r : Regs p.tsw p.rateW)
    (h : r.InvFor p.rateSupported) : (p.tick e r).1.InvFor p.rateSupported :=
  p.tick_keeps (reset_invFor _) (fun rate _ h => setrate_keeps_invFor h rate)
    (fun ts level _ h => edge_keeps_invFor h p.cmdKnown ts level) e r h

/-- Every clock edge keeps what spec/41_edge_classifier.md R155 says. -/
theorem tick_keeps_alternates (p : Params) (e : PortEdge p.tsw p.rateW) (r : Regs p.tsw p.rateW) (h : r.Alternates) :
    (p.tick e r).1.Alternates :=
  p.tick_keeps reset_alternates (fun rate _ h => setrate_keeps_alternates h p.rateSupported rate)
    (fun ts level r h => (edge_regs p.cmdKnown ts level r).alternates h) e r h

/-- Settles O15: both invariants at the default widths. -/
theorem resetMeetsTheInvariants : Obligations.ResetMeetsTheInvariants := ⟨reset_invFor _, reset_alternates⟩

/-- Settles O16: a step leaves the registers or is a clock edge of the default realisation. -/
theorem stepKeepsRegisterInvariants : Obligations.StepKeepsRegisterInvariants := by
  intro s t h hstep
  rcases step_regs s t hstep with heq | ⟨e, _, _, heq⟩
  · rwa [heq]
  · rw [heq]
    exact tick_keeps_invFor Config.params e s.regs h

/-- Settles O56: by induction on the clock edges (`Params.run_keeps`), each of which keeps both invariants. -/
theorem everyRealisationKeepsTheInvariants : Obligations.EveryRealisationKeepsTheInvariants := fun p =>
  ⟨⟨reset_invFor _, reset_alternates⟩, fun edges r =>
    ⟨p.run_keeps (tick_keeps_invFor p) edges r, p.run_keeps (tick_keeps_alternates p) edges r⟩⟩

end Machine
end Sys2Proof
end

section
/-!
Registers that the rules call not meaningful (spec/10_state.md R23, R24; spec/93_implementation_defined.md U14): two register
states with the same outlook produce the same events, and a consumed edge outside `IDLE` leaves no difference between them.
-/

namespace Sys2Proof

open Machine

namespace Machine
variable {tsw rateW : Nat}

/-! ### One command -/

/-- Classification neither reads nor writes `nref`. -/
theorem classify_nref (ts : Timestamp tsw) (r : Regs tsw rateW) (n : BitVec 2) :
    classify ts { r with nref := n } = ({ (classify ts r).1 with nref := n }, (classify ts r).2) := by
  have hmatch : Regs.firstMatch { r with nref := n } = r.firstMatch := rfl
  unfold classify
  rw [hmatch]
  rcases r.firstMatch with _ | _ | _ | _ <;> rfl

section outlook
variable {r r' : Regs tsw rateW}

theorem sameOutlook_refl (r : Regs tsw rateW) : r.SameOutlook r :=
  ⟨rfl, rfl, rfl, rfl, rfl, rfl, rfl, rfl, rfl, rfl, fun _ => rfl, fun _ _ _ => ⟨rfl, rfl⟩⟩

theorem Regs.SameOutlook.consumes_eq (h : r.SameOutlook r') (level : Bool) : r.consumes level = r'.consumes level := by
  rw [Regs.consumes, Regs.consumes, h.fault_eq, h.profileValid_eq, h.awaitPol_eq]

/-- Where no low phase is closed, measuring and recording overwrite all that may differ. -/
theorem Regs.SameOutlook.assignHigh_recordEdge_eq (h : r.SameOutlook r') (hs : r.state ≠ .idle) (ts : Timestamp tsw) :
    (r.assignHigh (distance ts r.ref0)).recordEdge ts = (r'.assignHigh (distance ts r'.ref0)).recordEdge ts := by
  simp only [Regs.assignHigh, Regs.recordEdge, h.ref0_eq hs, h.awaitPol_eq, h.acc_eq, h.nbits_eq, h.bstart_eq, h.bend_eq,
    h.profile_eq, h.profileValid_eq, h.fault_eq, h.fcause_eq]

/-- Where a low phase is closed, measuring overwrites all that may differ but `nref`. -/
theorem Regs.SameOutlook.lowClosed_eq (h : r.SameOutlook r') (hs : r.state ≠ .idle) (hc : r.closesLow true = true)
    (hp : r.awaitPol = true) (ts : Timestamp tsw) : r'.lowClosed ts = { r.lowClosed ts with nref := r'.nref } := by
  obtain ⟨href1, hhi⟩ := h.pulse_eq hc hs hp
  simp only [Regs.lowClosed, Regs.assignLow, h.ref0_eq hs, href1, hhi, h.awaitPol_eq, h.acc_eq, h.nbits_eq, h.bstart_eq,
    h.bend_eq, h.profile_eq, h.profileValid_eq, h.fault_eq, h.fcause_eq]

/-- A consumed edge outside `IDLE` does the same to both, and leaves them equal. -/
theorem Regs.SameOutlook.edge_eq (h : r.SameOutlook r') (known : Byte → Bool) (ts : Timestamp tsw) (level : Bool)
    (hc : r.consumes level = true) (hs : r.state ≠ .idle) : edge known ts level r = edge known ts level r' := by
  have hc' : r'.consumes level = true := h.consumes_eq level ▸ hc
  have hs' : r'.state ≠ .idle := h.state_eq ▸ hs
  cases hl : r.closesLow level with
  | false =>
    have hl' : r'.closesLow level = false := by rwa [Regs.closesLow, ← h.state_eq]
    rw [edge_of_not_closesLow known ts level r hc hs hl, edge_of_not_closesLow known ts level r' hc' hs' hl',
      h.assignHigh_recordEdge_eq hs ts]
  | true =>
    obtain ⟨rfl, hst⟩ := (r.closesLow_iff level).1 hl
    obtain ⟨-, -, hp⟩ := (r.consumes_iff true).1 hc
    rw [edge_of_closesLow known ts r hc hs hst, edge_of_closesLow known ts r' hc' hs' (h.state_eq ▸ hst),
      h.lowClosed_eq hs hl hp.symm ts, classify_nref ts (r.lowClosed ts) r'.nref]
    rfl

theorem Regs.SameOutlook.raiseSampleRateMissing (h : r.SameOutlook r') :
    r.raiseSampleRateMissing.SameOutlook r'.raiseSampleRateMissing :=
  { h with fault_eq := rfl, fcause_eq := rfl }

/-- In `START` no edge closes a low phase, so after the first reference only `ref0` of the measurement counts. -/
theorem Regs.SameOutlook.recordFirst (h : r.SameOutlook r') (ts : Timestamp tsw) :
    (r.recordFirst ts).SameOutlook (r'.recordFirst ts) :=
  { h with
    state_eq := rfl
    awaitPol_eq := congrArg Bool.not h.awaitPol_eq
    ref0_eq := fun _ => rfl
    pulse_eq := fun hc => absurd rfl ((Regs.closesLow_iff _ _).1 hc).2 }

/-- EDGE: the same events, and again the same outlook. -/
theorem Regs.SameOutlook.after_edge (h : r.SameOutlook r') (known : Byte → Bool) (ts : Timestamp tsw) (level : Bool) :
    (edge known ts level r).2 = (edge known ts level r').2 ∧
      (edge known ts level r).1.SameOutlook (edge known ts level r').1 := by
  by_cases hf : r.fault = true
  · rw [edge_of_fault known ts level r hf, edge_of_fault known ts level r' (h.fault_eq ▸ hf)]
    exact ⟨rfl, h⟩
  rw [Bool.not_eq_true] at hf
  by_cases hv : r.profileValid = true
  swap
  · rw [Bool.not_eq_true] at hv
    rw [edge_of_rateMissing known ts level r hf hv,
      edge_of_rateMissing known ts level r' (h.fault_eq ▸ hf) (h.profileValid_eq ▸ hv)]
    exact ⟨rfl, h.raiseSampleRateMissing⟩
  by_cases hl : level = r.awaitPol
  swap
  · rw [edge_of_drops known ts level r hf hv hl,
      edge_of_drops known ts level r' (h.fault_eq ▸ hf) (h.profileValid_eq ▸ hv) (h.awaitPol_eq ▸ hl)]
    exact ⟨rfl, h⟩
  by_cases hs : r.state = .idle
  · rw [edge_of_idle known ts level r hf hv hl hs,
      edge_of_idle known ts level r' (h.fault_eq ▸ hf) (h.profileValid_eq ▸ hv) (h.awaitPol_eq ▸ hl) (h.state_eq ▸ hs)]
    exact ⟨rfl, h.recordFirst ts⟩
  · rw [h.edge_eq known ts level ((r.consumes_iff level).2 ⟨hf, hv, hl⟩) hs]
    exact ⟨rfl, sameOutlook_refl _⟩

/-- SETRATE writes the same profile into both, or nothing. -/
theorem Regs.SameOutlook.after_setrate (h : r.SameOutlook r') (supported : Count rateW → Bool) (rate : Count rateW) :
    (setrate supported rate r).SameOutlook (setrate supported rate r') := by
  unfold setrate
  rw [← h.fault_eq]
  split
  · exact h
  split
  · exact { h with profile_eq := rfl, profileValid_eq := rfl }
  · exact { h with profile_eq := rfl, profileValid_eq := rfl }

/-- No status port carries a register that may differ (spec/10_state.md R33). -/
theorem Regs.SameOutlook.statusPorts_eq (h : r.SameOutlook r') : r.statusPorts = r'.statusPorts := by
  simp only [Regs.statusPorts, h.awaitPol_eq, h.state_eq, h.nbits_eq, h.profileValid_eq, h.fault_eq, h.fcause_eq]

end outlook

/-! ### Clock edges, steps and runs -/

/-- One clock edge: the same events, and again the same outlook. -/
theorem tick_sameOutlook (p : Params) (e : PortEdge p.tsw p.rateW) {r r' : Regs p.tsw p.rateW} (h : r.SameOutlook r') :
    (p.tick e r).2 = (p.tick e r').2 ∧ (p.tick e r).1.SameOutlook (p.tick e r').1 := by
  cases hr : e.rst with
  | true =>
    rw [p.tick_rst e r hr, p.tick_rst e r' hr]
    exact ⟨rfl, sameOutlook_refl _⟩
  | false =>
    cases hv : e.cmdValid with
    | false =>
      rw [p.tick_idle e r hr hv, p.tick_idle e r' hr hv]
      exact ⟨rfl, h⟩
    | true =>
      rw [p.tick_accepted e r hr hv, p.tick_accepted e r' hr hv]
      cases decodeCommand e.cmd with
      | nop => exact ⟨rfl, h⟩
      | setrate rate => exact ⟨rfl, h.after_setrate p.rateSupported rate⟩
      | edge ts level => exact h.after_edge p.cmdKnown ts level
      | reserved3 => exact ⟨rfl, h⟩

/-- One step on the same port: the same events, the same port left, and again the same outlook. -/
theorem step_sameOutlook (s s' : State) (h : s.regs.SameOutlook s'.regs) (hport : s.cmdPort = s'.cmdPort) :
    ∃ (t t' : State) (evs : List Event), step s = .next t ∧ step s' = .next t' ∧
      t.events = s.events ++ evs ∧ t'.events = s'.events ++ evs ∧
      t.regs.SameOutlook t'.regs ∧ t.cmdPort = t'.cmdPort := by
  cases hp : s.cmdPort with
  | nil =>
    refine ⟨s, s', [], ?_, ?_, (List.append_nil _).symm, (List.append_nil _).symm, h, hport⟩
    · rw [step, nextAction_nil s hp]
    · rw [step, nextAction_nil s' (hport ▸ hp)]
  | cons e rest =>
    obtain ⟨hevs, hregs⟩ := tick_sameOutlook Config.params e h
    exact ⟨_, _, (Config.params.tick e s.regs).2, step_eq_tick s e rest hp, step_eq_tick s' e rest (hport ▸ hp), rfl,
      hevs ▸ rfl, hregs, rfl⟩

/-- Settles O51: by induction on the number of steps, each by `step_sameOutlook`. -/
theorem unreadRegistersNeverShow : Obligations.UnreadRegistersNeverShow := by
  intro k
  induction k with
  | zero =>
    intro s s' h _
    exact ⟨s, s', [], run_zero s, run_zero s', (List.append_nil _).symm, (List.append_nil _).symm, h, h.statusPorts_eq⟩
  | succ k ih =>
    intro s s' h hport
    obtain ⟨u, u', evs, hu, hu', hevs, hevs', hregs, hport'⟩ := step_sameOutlook s s' h hport
    obtain ⟨t, t', more, ht, ht', hmore, hmore', hout⟩ := ih u u' hregs hport'
    refine ⟨t, t', evs ++ more, ?_, ?_, ?_, ?_, hout⟩
    · rw [run_succ_of_next k s u hu, ht]
    · rw [run_succ_of_next k s' u' hu', ht']
    · rw [hmore, hevs, List.append_assoc]
    · rw [hmore', hevs', List.append_assoc]

end Machine
end Sys2Proof
end

section
/-!
The accumulator registers and the Bit sequence of the source (spec/10_state.md R25 to R27, spec/92_eei_decisions.md D20): a run of
bits as a number, the bytes and the events of a full window, and what `append_bit` and the frame reset do to the sequence.
-/

namespace Sys2Proof.Machine

variable {tsw rateW : Nat}

/-! ### A run of bits as a number -/

section seqNumber
variable (l : List (SeqBit tsw))

theorem seqNumber_concat (b : SeqBit tsw) : seqNumber (l ++ [b]) = 2 * seqNumber l + b.value.toNat := by
  simp [seqNumber]

/-- The last bit to arrive is the least significant (spec/20_memory.md R64). -/
theorem seqNumber_testBit (j : Nat) : (seqNumber l).testBit j = (l.reverse[j]?).elim false SeqBit.value := by
  induction l using List.reverseRecOn generalizing j with
  | nil => simp [seqNumber]
  | append_singleton l b ih =>
    rw [seqNumber_concat, List.reverse_concat]
    cases j with
    | zero => cases hb : b.value <;> simp [hb]
    | succ j =>
      have hdiv : (2 * seqNumber l + b.value.toNat) / 2 = seqNumber l := by
        have := b.value.toNat_lt
        omega
      rw [Nat.testBit_succ, hdiv, ih, List.getElem?_cons_succ]

end seqNumber

/-! ### Bytes of a full window -/

theorem frameByte_getLsbD (acc : BitVec 32) (k j : Nat) :
    (frameByte acc k).getLsbD j = (decide (j < 8) && acc.getLsbD (24 - 8 * k + j)) := by
  rw [frameByte, BitVec.getLsbD_extractLsb']

/-- Bit by bit, byte `k` of a window. -/
theorem seqByte_testBit (bits : List (SeqBit tsw)) (k j : Nat) (hlen : 8 * k + 8 ≤ bits.length) :
    (seqByte bits k).testBit j = (decide (j < 8) && (bits[8 * k + (7 - j)]?).elim false SeqBit.value) := by
  have hwin : ((bits.drop (8 * k)).take 8).length = 8 := by
    rw [List.length_take, List.length_drop]
    omega
  rw [seqByte, seqNumber_testBit]
  by_cases hj : j < 8
  · rw [List.getElem?_reverse (by omega), hwin, List.getElem?_take_of_lt (by omega), List.getElem?_drop, decide_eq_true hj,
      Bool.true_and]
  · rw [List.getElem?_eq_none (by rw [List.length_reverse]; omega), decide_eq_false hj]
    rfl

section window
variable {r : Regs tsw rateW} {bits : List (SeqBit tsw)}

/-- Byte `k` of the accumulator is byte `k` of the sequence (spec/20_memory.md R66, spec/42_frame_assembler.md R172). -/
theorem Regs.Represents.frameByte_toNat (h : r.Represents bits) (hlen : bits.length = 32) (k : Nat) (hk : k < 4) :
    (frameByte r.acc k).toNat = seqByte bits k := by
  apply Nat.eq_of_testBit_eq
  intro j
  rw [BitVec.testBit_toNat, frameByte_getLsbD, seqByte_testBit bits k j (by omega)]
  by_cases hj : j < 8
  · rw [← h.values _ (by omega), show 31 - (8 * k + (7 - j)) = 24 - 8 * k + j by omega]
  · rw [decide_eq_false hj, Bool.false_and, Bool.false_and]

theorem Regs.Represents.frameByte_eq (h : r.Represents bits) (hlen : bits.length = 32) (k : Nat) (hk : k < 4) :
    frameByte r.acc k = BitVec.ofNat 8 (seqByte bits k) := by
  rw [← h.frameByte_toNat hlen k hk, BitVec.ofNat_toNat, BitVec.setWidth_eq]

theorem hdrOk_iff_toNat (acc : BitVec 32) :
    hdrOk acc = true ↔ (frameByte acc 0).toNat = 0xCA ∧ (frameByte acc 1).toNat = 0x34 := by
  simp [hdrOk, BitVec.toNat_eq]

/-- Two bytes are complements exactly when they add up to 255 (spec/42_frame_assembler.md R175). -/
theorem sumOk_iff_add (acc : BitVec 32) :
    sumOk acc = true ↔ (frameByte acc 2).toNat + (frameByte acc 3).toNat = 255 := by
  have hnot : frameByte acc 3 ^^^ 0xFF = ~~~frameByte acc 3 := BitVec.xor_allOnes
  have hlt := (frameByte acc 3).isLt
  rw [sumOk, hnot, beq_iff_eq, BitVec.toNat_eq, BitVec.toNat_not]
  omega

/-- The verdict on the accumulator is that on the sequence (spec/42_frame_assembler.md R174 to R176). -/
theorem Regs.Represents.verdict_eq (h : r.Represents bits) (hlen : bits.length = 32) (known : Byte → Bool) :
    verdict known r.acc = seqVerdict known bits := by
  have hok : (hdrOk r.acc && sumOk r.acc) = true ↔
      seqByte bits 0 = 0xCA ∧ seqByte bits 1 = 0x34 ∧ seqByte bits 2 + seqByte bits 3 = 255 := by
    rw [Bool.and_eq_true, hdrOk_iff_toNat, sumOk_iff_add, h.frameByte_toNat hlen 0 (by decide),
      h.frameByte_toNat hlen 1 (by decide), h.frameByte_toNat hlen 2 (by decide), h.frameByte_toNat hlen 3 (by decide),
      and_assoc]
  rw [Machine.verdict_eq, seqVerdict, h.frameByte_eq hlen 2 (by decide)]
  exact if_congr hok rfl rfl

/-- A BYTE event of the registers is that of the sequence (spec/42_frame_assembler.md R173). -/
theorem Regs.Represents.byteEvent_eq (h : r.Represents bits) (hlen : bits.length = 32) (k : Nat) (hk : k < 4) :
    byteEvent r k = seqByteEvent bits k := by
  rw [byteEvent, seqByteEvent, h.frameByte_eq hlen k hk, h.starts k hk, h.stops k hk]

/-- The events of a full window are those of the sequence (spec/42_frame_assembler.md R180). -/
theorem Regs.Represents.frameEvents_eq (h : r.Represents bits) (hlen : bits.length = 32) (known : Byte → Bool) :
    frameEvents known r = seqFrameEvents known bits := by
  have hstart : r.bstart.b0 = seqStart bits 0 := h.starts 0 (by decide)
  have hstop : r.bend.b3 = seqStop bits 31 := h.stops 3 (by decide)
  rw [frameEvents, seqFrameEvents, frameEvent, h.byteEvent_eq hlen 0 (by decide), h.byteEvent_eq hlen 1 (by decide),
    h.byteEvent_eq hlen 2 (by decide), h.byteEvent_eq hlen 3 (by decide), h.verdict_eq hlen known,
    h.frameByte_eq hlen 2 (by decide), hstart, hstop]

end window

/-! ### The operations on the sequence -/

section operations
variable {r : Regs tsw rateW} {bits : List (SeqBit tsw)}

/-- The frame reset empties the sequence (spec/42_frame_assembler.md R179). -/
theorem frameReset_represents (r : Regs tsw rateW) : r.frameReset.Represents [] where
  length_eq := rfl
  values _ _ := BitVec.getLsbD_zero
  starts k _ := Spans.get_zero k
  stops k _ := Spans.get_zero k

/-- What a list followed by one more entry answers at a position. -/
theorem elim_getElem?_concat {α β : Type} (l : List α) (a : α) (i : Nat) (d : β) (f : α → β) :
    ((l ++ [a])[i]?).elim d f = if i = l.length then f a else (l[i]?).elim d f := by
  by_cases h : i = l.length
  · simp [h]
  · rw [if_neg h]
    by_cases hlt : i < l.length
    · rw [List.getElem?_append_left hlt]
    · have hge : l.length + 1 ≤ i := by omega
      rw [List.getElem?_eq_none (by simpa using hge), List.getElem?_eq_none (Nat.le_of_succ_le hge)]

/-- A conditional write to the register that position `n` of the sequence belongs to, when it is position `c` of its byte. -/
theorem Spans.get_boundary_set (x : Spans tsw) (n c k : Nat) (v : Timestamp tsw) (hn : n ≤ 31) (hk : k < 4) (hc : c < 8) :
    (if n % 8 = c then x.set (n / 8) v else x).get k = if 8 * k + c = n then v else x.get k := by
  by_cases h : n % 8 = c
  · rw [if_pos h, Spans.get_set x _ k v (by omega) hk]
    exact if_congr (by omega) rfl rfl
  · rw [if_neg h, if_neg (by omega)]

/-- `append_bit` appends one bit to the sequence (spec/42_frame_assembler.md R170). -/
theorem appendBit_represents (h : r.Represents bits) (hn : r.nbits.toNat ≤ 31) (v : Bool) (s e : Timestamp tsw) :
    (r.appendBit v s e).Represents (bits ++ [⟨v, s, e⟩]) where
  length_eq := by
    rw [Regs.appendBit_nbits, nbits_succ_toNat _ hn, h.length_eq, List.length_append, List.length_singleton]
  values i hi := by
    rw [Regs.appendBit_acc, if_pos hn, storeBit_getLsbD _ _ v (by omega) _ (by omega), elim_getElem?_concat, ← h.length_eq,
      h.values i hi]
    exact if_congr (by omega) rfl rfl
  starts k hk := by
    rw [Regs.appendBit_bstart, Spans.get_boundary_set _ _ 0 k s hn hk (by decide), seqStart, elim_getElem?_concat,
      ← h.length_eq, h.starts k hk]
    rfl
  stops k hk := by
    rw [Regs.appendBit_bend, Spans.get_boundary_set _ _ 7 k e hn hk (by decide), seqStop, elim_getElem?_concat,
      ← h.length_eq, h.stops k hk]
    rfl

/-- Registers with the same accumulator represent the same sequence. -/
theorem Regs.Represents.of_eq {q : Regs tsw rateW} (h : r.Represents bits) (hn : q.nbits = r.nbits) (hacc : q.acc = r.acc)
    (hbs : q.bstart = r.bstart) (hbe : q.bend = r.bend) : q.Represents bits where
  length_eq := hn ▸ h.length_eq
  values := hacc ▸ h.values
  starts := hbs ▸ h.starts
  stops := hbe ▸ h.stops

/-- The registers after a bit, its edge recorded, hold the sequence with that bit. -/
theorem windowFull_represents (h : r.Represents bits) (hn : r.nbits.toNat ≤ 31) (v : Bool) (ts : Timestamp tsw) :
    (r.windowFull v ts).Represents (bits ++ [⟨v, r.ref1, ts⟩]) := by
  rw [Regs.windowFull_eq]
  exact appendBit_represents (r := (r.lowClosed ts).recordEdge ts) (h.of_eq rfl rfl rfl rfl) hn v r.ref1 ts

end operations

/-- Settles O50: by the outcomes of EDGE; a bit is `windowFull_represents`, and a full window is read by `frameEvents_eq`. -/
theorem accumulatorRefinesBitSequence : Obligations.AccumulatorRefinesBitSequence := by
  intro tsw rateW known ts level r bits hn h
  have hout := edge_outcome known ts level r hn
  have hlen := h.length_eq
  generalize edge known ts level r = out at hout ⊢
  cases hout with
  | halted | dropped => exact .inl ⟨h, .inl rfl⟩
  | rateMissing | first | high | unmatched => exact .inl ⟨h.of_eq rfl rfl rfl rfl, .inl rfl⟩
  | startMarker => exact .inl ⟨h.of_eq rfl rfl rfl rfl, .inr rfl⟩
  | bit v _ _ _ _ hn' =>
    exact .inr ⟨⟨v, r.ref1, ts⟩, rfl, rfl, .inl ⟨by omega, windowFull_represents h hn v ts, rfl⟩⟩
  | frame v _ _ _ _ hn' =>
    have hbits : bits.length = 31 := by rw [← hlen, hn']; rfl
    have hfull : (bits ++ [(⟨v, r.ref1, ts⟩ : SeqBit tsw)]).length = 32 := by
      rw [List.length_append, hbits, List.length_singleton]
    refine .inr ⟨⟨v, r.ref1, ts⟩, rfl, rfl, .inr ⟨hbits, frameReset_represents _, ?_⟩⟩
    rw [(windowFull_represents h hn v ts).frameEvents_eq hfull known]

/-! ### A sequence one bit short of a window -/

/-- The first 31 bits of `0xCA3412ED`, in arrival order, with no timestamps. -/
def shortWindow : List SeqBit := (List.range 31).map fun i => ⟨(0xCA3412ED : BitVec 32).getLsbD (31 - i), 0, 0⟩

/-- Registers that hold those bits. -/
def shortWindowRegs : Regs := { Regs.reset with nbits := 31, acc := 0xCA3412EC }

/-- The hypotheses of `accumulatorRefinesBitSequence` are met with 31 bits held, where the next bit completes the frame. -/
theorem shortWindowRegs_represents : shortWindowRegs.nbits.toNat ≤ 31 ∧ shortWindowRegs.Represents shortWindow := by
  refine ⟨by decide, rfl, ?_, ?_, ?_⟩ <;> decide

end Sys2Proof.Machine
end

section
/-!
The two index spaces of spec/20_memory.md: the LUT (R61, R62), whose index map is onto the six entries, and the command table
(R63), which EDGE asks in the frame trigger alone, and there for the verdict alone.
-/

namespace Sys2Proof.Machine
variable {tsw rateW : Nat}

/-! ### The LUT -/

/-- The entry at a generated index is `LUT(p, ph)`, which the match predicates read (spec/41_edge_classifier.md R148). -/
@[simp] theorem Profile.entry_lutIndex (P : Profile rateW) (p : Pattern) (ph : Phase) :
    P.entry (lutIndex p ph) = some (P.lut p ph) := by
  cases p <;> cases ph <;> rfl

/-- An index without an entry, as 6 and 7 are, is never generated. -/
theorem lutIndex_ne_of_entry_eq_none (P : Profile rateW) {i : BitVec 3} (h : P.entry i = none) (p : Pattern)
    (ph : Phase) : lutIndex p ph ≠ i := by
  rintro rfl
  rw [P.entry_lutIndex] at h
  nomatch h

theorem exists_lutIndex_toNat_eq (i : Fin 6) : ∃ (p : Pattern) (ph : Phase), (lutIndex p ph).toNat = i.val :=
  match i with
  | 0 => ⟨.start, .hi, rfl⟩
  | 1 => ⟨.start, .lo, rfl⟩
  | 2 => ⟨.bit1, .hi, rfl⟩
  | 3 => ⟨.bit1, .lo, rfl⟩
  | 4 => ⟨.bit0, .hi, rfl⟩
  | 5 => ⟨.bit0, .lo, rfl⟩

/-- Settles O42: every generated index has its entry, the indices 6 and 7 have none, and each of 0 to 5 is generated. -/
theorem lutIndexMap : Obligations.LutIndexMap :=
  ⟨Profile.entry_lutIndex,
    fun p ph =>
      ⟨lutIndex_ne_of_entry_eq_none (Profile.zero : Profile) rfl p ph,
        lutIndex_ne_of_entry_eq_none (Profile.zero : Profile) rfl p ph⟩,
    exists_lutIndex_toNat_eq⟩

/-! ### The command table -/

/-- Two tables give one verdict on a window, or both are asked for `byte[2]` and disagree on it
(spec/42_frame_assembler.md R176, R177). -/
theorem verdict_eq_or_tables_disagree (known known' : Byte → Bool) (acc : BitVec 32) :
    verdict known acc = verdict known' acc ∨
      known (frameByte acc 2) ≠ known' (frameByte acc 2) ∧
        ∀ table : Byte → Bool, verdict table acc = if table (frameByte acc 2) then .frameKnown else .frameUnknown := by
  cases hok : hdrOk acc && sumOk acc with
  | false => exact .inl (by simp [verdict_eq, hok])
  | true =>
    by_cases hcode : known (frameByte acc 2) = known' (frameByte acc 2)
    · exact .inl (by simp [verdict_eq, hcode])
    · exact .inr ⟨hcode, fun table => by simp [verdict_eq, hok]⟩

/-- The registers and events after one command with each of two tables: equal, or unlike in the kind of the last event alone,
which tells each table's answer on the code the event carries. -/
def SameButForTables (known known' : Byte → Bool) (out out' : Regs tsw rateW × List (Event tsw)) : Prop :=
  out.1 = out'.1 ∧
    (out.2 = out'.2 ∨
      ∃ (pre : List (Event tsw)) (code : Byte) (a b : Timestamp tsw), known code ≠ known' code ∧
        out.2 = pre ++ [⟨if known code then .frameKnown else .frameUnknown, code, a, b⟩] ∧
        out'.2 = pre ++ [⟨if known' code then .frameKnown else .frameUnknown, code, a, b⟩])

theorem SameButForTables.of_eq {known known' : Byte → Bool} {out out' : Regs tsw rateW × List (Event tsw)} (h : out = out') :
    SameButForTables known known' out out' :=
  ⟨congrArg Prod.fst h, .inl (congrArg Prod.snd h)⟩

/-- A frame's events tell the table by the frame event alone, which is the last (spec/42_frame_assembler.md R180). -/
theorem frameTrigger_sameButForTables (known known' : Byte → Bool) (out : Regs tsw rateW × List (Event tsw)) :
    SameButForTables known known' (frameTrigger known out) (frameTrigger known' out) := by
  by_cases hn : out.1.nbits = 32
  · simp only [frameTrigger, if_pos hn]
    rcases verdict_eq_or_tables_disagree known known' out.1.acc with h | ⟨hcode, hverdict⟩
    · exact .of_eq (by simp only [frameEvents, frameEvent, h])
    · refine ⟨rfl, .inr ⟨out.2 ++ [byteEvent out.1 0, byteEvent out.1 1, byteEvent out.1 2, byteEvent out.1 3],
        frameByte out.1.acc 2, out.1.bstart.b0, out.1.bend.b3, hcode, ?_, ?_⟩⟩ <;>
        simp [frameEvents, frameEvent, hverdict]
  · exact .of_eq (by simp only [frameTrigger, if_neg hn])

/-- EDGE asks the command table nowhere, or in the frame trigger alone (spec/41_edge_classifier.md R141 to R144, R154). -/
theorem edge_asks_table_in_frameTrigger (ts : Timestamp tsw) (level : Bool) (r : Regs tsw rateW) :
    (∃ out, ∀ known : Byte → Bool, edge known ts level r = out) ∨
      ∃ out, ∀ known : Byte → Bool, edge known ts level r = frameTrigger known out := by
  cases hf : r.fault with
  | true => exact .inl ⟨_, fun known => edge_of_fault known ts level r hf⟩
  | false =>
    cases hv : r.profileValid with
    | false => exact .inl ⟨_, fun known => edge_of_rateMissing known ts level r hf hv⟩
    | true =>
      by_cases hl : level = r.awaitPol
      · by_cases hs : r.state = .idle
        · exact .inl ⟨_, fun known => edge_of_idle known ts level r hf hv hl hs⟩
        · exact .inr ⟨_, fun known => edge_of_consumes known ts level r ((r.consumes_iff level).2 ⟨hf, hv, hl⟩) hs⟩
      · exact .inl ⟨_, fun known => edge_of_drops known ts level r hf hv hl⟩

/-- Settles O48: what EDGE does is the same for both tables up to the frame trigger, and that tells them apart in the verdict
alone. -/
theorem commandTableShowsOnlyInTheVerdict : Obligations.CommandTableShowsOnlyInTheVerdict := by
  intro tsw rateW known known' ts level r
  change SameButForTables known known' (edge known ts level r) (edge known' ts level r)
  rcases edge_asks_table_in_frameTrigger ts level r with ⟨out, h⟩ | ⟨out, h⟩
  · exact .of_eq ((h known).trans (h known').symm)
  · rw [h known, h known']
    exact frameTrigger_sameButForTables known known' out

end Sys2Proof.Machine
end

section
/-!
The command words of spec/30_encoding.md R91 to R96: the fields of a word as numbers, the decoder by the number in `op`, and the
decoder and the encoder as inverses of each other, at any widths and at the defaults.
-/

namespace Sys2Proof

open Machine

/-! ### The fields of a word as numbers -/

section fields
variable {dataW : Nat} (w : BitVec (2 + 1 + 1 + dataW))

/-- `op` is what stands above `rsv`, `lvl` and `data` (spec/30_encoding.md R91). -/
theorem opField_toNat : (opField w).toNat = w.toNat / 2 ^ (dataW + 2) := by
  have hlt : w.toNat / 2 ^ (dataW + 2) < 2 ^ 2 := by
    rw [Nat.div_lt_iff_lt_mul (Nat.two_pow_pos _), ← Nat.pow_add]
    exact lt_of_lt_of_eq w.isLt (congrArg _ (by omega))
  rw [opField, BitVec.extractLsb'_toNat, Nat.shiftRight_eq_div_pow, Nat.mod_eq_of_lt hlt]

theorem opField_eq_iff (n : Nat) (hn : n < 4) : opField w = BitVec.ofNat 2 n ↔ w.toNat / 2 ^ (dataW + 2) = n := by
  rw [← opField_toNat, BitVec.toNat_eq, BitVec.toNat_ofNat, Nat.mod_eq_of_lt hn]

theorem dataField_toNat : (dataField w).toNat = w.toNat % 2 ^ dataW := by
  rw [dataField, BitVec.extractLsb'_toNat, Nat.shiftRight_zero]

/-- `lvl` is the bit above `data` (spec/30_encoding.md R91). -/
theorem lvlField_iff : lvlField w = true ↔ w.toNat / 2 ^ dataW % 2 = 1 := by
  rw [lvlField, ← BitVec.testBit_toNat, Nat.testBit_eq_decide_div_mod_eq, decide_eq_true_iff]

end fields

section widths
variable {tsw rateW : Nat} (w : CmdWord tsw rateW)

/-- The rate operand is the plain low bits of the word (spec/30_encoding.md R93). -/
theorem rateOperand_toNat : (rateOperand w).toNat = w.toNat % 2 ^ rateW := by
  rw [rateOperand, BitVec.toNat_setWidth, dataField_toNat,
    Nat.mod_mod_of_dvd _ (Nat.pow_dvd_pow 2 (Nat.le_max_right tsw rateW))]

theorem rateOperand_eq_ofNat : rateOperand w = BitVec.ofNat rateW (w.toNat % 2 ^ Config.dataW tsw rateW) := by
  rw [← dataField_toNat, BitVec.ofNat_toNat]
  rfl

/-- The timestamp operand is the plain low bits of the word (spec/30_encoding.md R94). -/
theorem tsOperand_toNat : (tsOperand w).toNat = w.toNat % 2 ^ tsw := by
  rw [tsOperand, BitVec.toNat_setWidth, dataField_toNat,
    Nat.mod_mod_of_dvd _ (Nat.pow_dvd_pow 2 (Nat.le_max_left tsw rateW))]

theorem tsOperand_eq_ofNat : tsOperand w = BitVec.ofNat tsw (w.toNat % 2 ^ Config.dataW tsw rateW) := by
  rw [← dataField_toNat, BitVec.ofNat_toNat]
  rfl

/-! ### The decoder, by `op` alone -/

/-- The four opcodes (spec/30_encoding.md R104). -/
theorem opField_cases : opField w = 0 ∨ opField w = 1 ∨ opField w = 2 ∨ opField w = 3 := by
  generalize opField w = op
  decide +revert

theorem decodeCommand_eq_nop_iff : decodeCommand w = .nop ↔ opField w = 0 := by
  unfold decodeCommand
  split_ifs <;> simp_all

theorem decodeCommand_eq_setrate_iff (rate : Count rateW) :
    decodeCommand w = .setrate rate ↔ opField w = 1 ∧ rateOperand w = rate := by
  unfold decodeCommand
  split_ifs <;> simp_all

theorem decodeCommand_eq_edge_iff (ts : Timestamp tsw) (level : Bool) :
    decodeCommand w = .edge ts level ↔ opField w = 2 ∧ tsOperand w = ts ∧ lvlField w = level := by
  unfold decodeCommand
  split_ifs <;> simp_all

theorem decodeCommand_eq_reserved3_iff : decodeCommand w = .reserved3 ↔ opField w = 3 := by
  unfold decodeCommand
  rcases opField_cases w with h | h | h | h <;> simp [h]

end widths

/-! ### The decoder on composed words -/

section composed
variable {tsw rateW : Nat} (rsv lvl : Bool) (data : BitVec (Config.dataW tsw rateW))

/-- NOP uses no other field (spec/30_encoding.md R92, R96). -/
@[simp] theorem decodeCommand_commandWord_zero : decodeCommand (commandWord 0 rsv lvl data : CmdWord tsw rateW) = .nop :=
  (decodeCommand_eq_nop_iff _).2 (opField_commandWord 0 rsv lvl data)

/-- SETRATE uses `data` only (spec/30_encoding.md R93, R96). -/
@[simp] theorem decodeCommand_commandWord_one :
    decodeCommand (commandWord 1 rsv lvl data : CmdWord tsw rateW) = .setrate (data.setWidth rateW) :=
  (decodeCommand_eq_setrate_iff _ _).2
    ⟨opField_commandWord 1 rsv lvl data, congrArg _ (dataField_commandWord 1 rsv lvl data)⟩

/-- EDGE uses `data` and `lvl` (spec/30_encoding.md R94, R96). -/
@[simp] theorem decodeCommand_commandWord_two :
    decodeCommand (commandWord 2 rsv lvl data : CmdWord tsw rateW) = .edge (data.setWidth tsw) lvl :=
  (decodeCommand_eq_edge_iff _ _ _).2
    ⟨opField_commandWord 2 rsv lvl data, congrArg _ (dataField_commandWord 2 rsv lvl data),
      lvlField_commandWord 2 rsv lvl data⟩

/-- The reserved opcode uses no other field (spec/43_nop_reserved.md R191). -/
@[simp] theorem decodeCommand_commandWord_three :
    decodeCommand (commandWord 3 rsv lvl data : CmdWord tsw rateW) = .reserved3 :=
  (decodeCommand_eq_reserved3_iff _).2 (opField_commandWord 3 rsv lvl data)

end composed

/-! ### The decoder and the encoder -/

section inverse
variable {tsw rateW : Nat}

/-- Every command is read back from its canonical word: each operand fits `data`, whichever width is larger. -/
@[simp] theorem decodeCommand_word (c : Command tsw rateW) : decodeCommand c.word = c := by
  cases c with
  | nop => exact decodeCommand_commandWord_zero _ _ _
  | setrate rate =>
    rw [Command.word, decodeCommand_commandWord_one, BitVec.setWidth_setWidth_of_le _ (Nat.le_max_right tsw rateW),
      BitVec.setWidth_eq]
  | edge ts level =>
    rw [Command.word, decodeCommand_commandWord_two, BitVec.setWidth_setWidth_of_le _ (Nat.le_max_left tsw rateW),
      BitVec.setWidth_eq]
  | reserved3 => exact decodeCommand_commandWord_three _ _ _

@[simp] theorem legalWord_word (c : Command tsw rateW) : legalWord c.word = c.wf := by
  rw [legalWord, decodeCommand_word, beq_self_eq_true, Bool.and_true]

/-- The words a host should use (spec/30_encoding.md R96) are the canonical words of the legal commands. -/
theorem legalWord_iff (w : CmdWord tsw rateW) :
    legalWord w = true ↔ ∃ c : Command tsw rateW, c.wf = true ∧ w = c.word := by
  constructor
  · intro h
    obtain ⟨hwf, hword⟩ := Bool.and_eq_true_iff.1 h
    exact ⟨decodeCommand w, hwf, (beq_iff_eq.1 hword).symm⟩
  · rintro ⟨c, hwf, rfl⟩
    rw [legalWord_word, hwf]

end inverse

@[simp] theorem decode_encode (i : Instr) : decode (encode i) = i := by
  rw [decode, encode, decodeCommand_word, Instr.instr_command]

@[simp] theorem legalWord_encode (i : Instr) : legalWord (encode i) = i.wf := legalWord_word i.command

/-- Settles O3: the decoder of the default widths inverts the encoder there. -/
theorem decodeInvertsEncode : Obligations.DecodeInvertsEncode := decode_encode

/-- Settles O55: the inverse by `decodeCommand_word`, the operands by the fields as numbers. -/
theorem everyWidthDecodesWhatItEncodes : Obligations.EveryWidthDecodesWhatItEncodes := by
  refine fun tsw rateW => ⟨fun c => ⟨decodeCommand_word c, legalWord_word c⟩, fun w rate h => ?_, fun w ts level h => ?_⟩
  · obtain ⟨-, rfl⟩ := (decodeCommand_eq_setrate_iff w rate).1 h
    exact rateOperand_toNat w
  · obtain ⟨-, rfl, rfl⟩ := (decodeCommand_eq_edge_iff w ts level).1 h
    exact ⟨tsOperand_toNat w, lvlField_iff w⟩

/-- Settles O2: the number above `rsv` is `op`, each of its values selects one command, and `exec` completes each. -/
theorem decodingIsByOpcodeAlone : Obligations.DecodingIsByOpcodeAlone := by
  intro w
  have hop := opField_eq_iff w
  refine ⟨fun h => ?nop, fun h => ?setrate, fun h => ?edge, fun h => ?reserved3, ?lt, fun s => ⟨_, exec_eq_accept _ s⟩⟩
  case nop => exact congrArg Command.instr ((decodeCommand_eq_nop_iff w).2 ((hop 0 (by decide)).2 h))
  case setrate =>
    exact decode_of_setrate ((decodeCommand_eq_setrate_iff w _).2 ⟨(hop 1 (by decide)).2 h, rateOperand_eq_ofNat w⟩)
  case edge =>
    refine decode_of_edge ((decodeCommand_eq_edge_iff w _ _).2 ⟨(hop 2 (by decide)).2 h, tsOperand_eq_ofNat w, ?_⟩)
    rw [Bool.eq_iff_iff, lvlField_iff, decide_eq_true_iff]
  case reserved3 => exact congrArg Command.instr ((decodeCommand_eq_reserved3_iff w).2 ((hop 3 (by decide)).2 h))
  case lt => exact opField_toNat w ▸ (opField w).isLt

/-- Settles O4: on a composed word the decoder answers from the fields that its opcode uses. -/
theorem ignoredBitsChangeNothing : Obligations.IgnoredBitsChangeNothing := by
  intro rsv rsv' lvl lvl' data data'
  unfold decode
  refine ⟨?nop, ?setrate, ?edge, ?reserved3⟩
  case nop => rw [decodeCommand_commandWord_zero, decodeCommand_commandWord_zero]
  case setrate => rw [decodeCommand_commandWord_one, decodeCommand_commandWord_one]
  case edge => rw [decodeCommand_commandWord_two, decodeCommand_commandWord_two]
  case reserved3 => rw [decodeCommand_commandWord_three, decodeCommand_commandWord_three]

/-- Settles O5: `legalWord_iff` at the default widths, where instructions and commands correspond. -/
theorem legalWordsAreEncodings : Obligations.LegalWordsAreEncodings := by
  intro w
  constructor
  · intro h
    obtain ⟨c, hwf, hw⟩ := (legalWord_iff w).1 h
    exact ⟨c.instr, by rwa [Instr.wf, c.command_instr], by rwa [encode, c.command_instr]⟩
  · rintro ⟨i, hwf, rfl⟩
    rw [legalWord_encode, hwf]

/-- Settles O1: the eight words are decoded. -/
theorem writtenWordsDecode : Obligations.WrittenWordsDecode := by
  unfold Obligations.WrittenWordsDecode
  decide

/-! ### Lines of a program -/

/-- An operand in range is kept as the number the writer wrote (spec/30_encoding.md R102). -/
theorem toNat_ofNat_of_inRange {width n : Nat} (h : n < 2 ^ width) : (BitVec.ofNat width n).toNat = n := by
  rw [BitVec.toNat_ofNat, Nat.mod_eq_of_lt h]

/-- No line stands for the reserved command (spec/43_nop_reserved.md R191). -/
theorem wf_of_mem_assembleLine {line : AsmLine} {i : Instr} (h : i ∈ assembleLine line) : i.wf = true := by
  cases line with
  | nop | setrate | edge | rise | fall =>
    obtain rfl := List.mem_singleton.1 h
    rfl
  | pulse t hi lo =>
    rcases List.mem_pair.1 h with rfl | rfl <;> rfl

/-- Settles O7: an operand in range is the number itself, and every command a line stands for is legal. -/
theorem notationExpandsAsWritten : Obligations.NotationExpandsAsWritten := by
  refine ⟨rfl, fun rate h => ⟨BitVec.ofNat _ rate, rfl, toNat_ofNat_of_inRange h⟩,
    fun ts _ h => ⟨BitVec.ofNat _ ts, rfl, toNat_ofNat_of_inRange h⟩, fun _ => rfl, fun _ => rfl,
    fun t h l hlt => ⟨BitVec.ofNat _ (t + h), BitVec.ofNat _ (t + h + l), rfl, ?_, toNat_ofNat_of_inRange hlt⟩,
    fun line i hi => ?_⟩
  · exact toNat_ofNat_of_inRange (Nat.lt_of_le_of_lt (Nat.le_add_right _ _) hlt)
  · rw [legalWord_encode, wf_of_mem_assembleLine hi]

namespace Machine

/-! ### Commands on the port -/

/-- With a command accepted the step runs it. -/
theorem step_accepted (s : State) (e : PortEdge) (rest : List PortEdge) (h : s.cmdPort = e :: rest) (hr : e.rst = false)
    (hv : e.cmdValid = true) : step s = exec (decode e.cmd) { s with cmdPort := rest } := by
  rw [step, nextAction_accepted s e rest h hr hv]

/-- Settles O8: it is the rule `step_accepted`. -/
theorem stepRunsAcceptedCommand : Obligations.StepRunsAcceptedCommand := step_accepted

/-- A word of the command port is presented as it is: its number fits the wires. -/
theorem withFetchWord_toNat (s : State) (w : CmdWord) :
    s.withFetchWord Config.CMD_W w.toNat = { s with cmdPort := presents w :: s.cmdPort } := by
  rw [State.withFetchWord, Nat.mod_eq_of_lt w.isLt, BitVec.ofNat_toNat, BitVec.setWidth_eq]

/-- Settles O9: the presented word is accepted and decodes to the command. -/
theorem presentedCommandRunsNext : Obligations.PresentedCommandRunsNext := by
  intro i s
  rw [withFetchWord_toNat, step_accepted _ (presents (encode i)) s.cmdPort rfl rfl rfl]
  exact congrArg (exec · s) (decode_encode i)

theorem step_completes (s : State) : ∃ t, step s = .next t := by
  cases hp : s.cmdPort with
  | nil => exact ⟨s, by rw [step, nextAction_nil s hp]⟩
  | cons e rest => exact ⟨_, step_eq_tick s e rest hp⟩

/-- Settles O12: a command is `exec_eq_accept`, a step holds or is a clock edge. -/
theorem everyCommandCompletes : Obligations.EveryCommandCompletes :=
  ⟨fun i s => ⟨_, exec_eq_accept i s⟩, step_completes⟩

end Machine
end Sys2Proof
end

section
/-!
The events of PWC: their words (spec/30_encoding.md R98, R99), what a command and a step add to them (R101, R180), and their
delivery over the ports of the reference timing (spec/70_reset_and_hazards.md R246).
-/

namespace Sys2Proof.Machine

/-! ### Event words -/

/-- The codes of spec/30_encoding.md R99 tell the kinds apart. -/
theorem EventKind.ofCode_eq_some_iff (c : BitVec 3) (k : EventKind) : EventKind.ofCode c = some k ↔ k.code = c := by
  cases k <;> decide +revert

/-- The kinds 0 and 7 are never produced (spec/30_encoding.md R99). -/
theorem EventKind.ofCode_eq_none_iff (c : BitVec 3) : EventKind.ofCode c = none ↔ c = 0 ∨ c = 7 := by
  decide +revert

section word
variable {tsw : Nat}

/-- The fields of an event's word are those of the event (spec/30_encoding.md R98). -/
theorem Event.word_fields (e : Event tsw) :
    e.word.extractLsb' (8 + tsw + tsw) 3 = e.kind.code ∧ e.word.extractLsb' (tsw + tsw) 8 = e.val ∧
      e.word.extractLsb' tsw tsw = e.start ∧ e.word.extractLsb' 0 tsw = e.stop := by
  unfold Event.word
  refine ⟨?kind, ?val, ?start, BitVec.extractLsb'_append_eq_right⟩
  case kind =>
    rw [BitVec.extractLsb'_append_eq_of_le (by omega), BitVec.extractLsb'_append_eq_of_le (by omega),
      Nat.add_sub_cancel, Nat.add_sub_cancel, BitVec.extractLsb'_append_eq_left]
  case val =>
    rw [BitVec.extractLsb'_append_eq_of_le (by omega), Nat.add_sub_cancel, BitVec.extractLsb'_append_eq_of_le (by omega),
      Nat.sub_self, BitVec.extractLsb'_append_eq_right]
  case start =>
    rw [BitVec.extractLsb'_append_eq_of_le (by omega), Nat.sub_self, BitVec.extractLsb'_append_eq_right]

/-- A word of the event port is composed of its fields (spec/30_encoding.md R98). -/
theorem eventWord_eq_append_fields (w : EventWord tsw) :
    w.extractLsb' (8 + tsw + tsw) 3 ++ w.extractLsb' (tsw + tsw) 8 ++ w.extractLsb' tsw tsw ++ w.extractLsb' 0 tsw = w := by
  rw [BitVec.extractLsb'_append_extractLsb'_eq_extractLsb' (by omega),
    BitVec.extractLsb'_append_extractLsb'_eq_extractLsb' (by omega),
    BitVec.extractLsb'_append_extractLsb'_eq_extractLsb' (by omega), BitVec.extractLsb'_eq_self]

/-- A word reads as the event whose word it is, and as no other. -/
theorem Event.ofWord_eq_some_iff (w : EventWord tsw) (e : Event tsw) : Event.ofWord w = some e ↔ e.word = w := by
  rw [Event.ofWord, Option.map_eq_some_iff]
  constructor
  · rintro ⟨k, hk, rfl⟩
    rw [Event.word, (EventKind.ofCode_eq_some_iff _ k).1 hk]
    exact eventWord_eq_append_fields w
  · rintro rfl
    obtain ⟨hkind, hval, hstart, hstop⟩ := e.word_fields
    exact ⟨e.kind, (EventKind.ofCode_eq_some_iff _ _).2 hkind.symm, by rw [hval, hstart, hstop]⟩

/-- The kind of an event word as a number. -/
theorem eventWord_kind_toNat (w : EventWord tsw) :
    (w.extractLsb' (8 + tsw + tsw) 3).toNat = w.toNat / 2 ^ (8 + tsw + tsw) := by
  have hlt : w.toNat / 2 ^ (8 + tsw + tsw) < 2 ^ 3 := by
    rw [Nat.div_lt_iff_lt_mul (Nat.two_pow_pos _), ← Nat.pow_add]
    exact lt_of_lt_of_eq w.isLt (congrArg _ (show 3 + 8 + tsw + tsw = _ by omega))
  rw [BitVec.extractLsb'_toNat, Nat.shiftRight_eq_div_pow, Nat.mod_eq_of_lt hlt]

theorem Event.ofWord_eq_none_iff (w : EventWord tsw) :
    Event.ofWord w = none ↔ w.toNat / 2 ^ (8 + tsw + tsw) = 0 ∨ w.toNat / 2 ^ (8 + tsw + tsw) = 7 := by
  rw [Event.ofWord, Option.map_eq_none_iff, EventKind.ofCode_eq_none_iff, ← eventWord_kind_toNat, BitVec.toNat_eq,
    BitVec.toNat_eq]
  rfl

end word

/-- Settles O6: reading a word and writing one are related by `ofWord_eq_some_iff`, in both directions. -/
theorem eventWordsRoundTrip : Obligations.EventWordsRoundTrip := fun _ =>
  ⟨fun e => (Event.ofWord_eq_some_iff e.word e).2 rfl, fun w e => (Event.ofWord_eq_some_iff w e).1, Event.ofWord_eq_none_iff⟩

/-! ### What a command and a step produce -/

section kinds
variable {tsw rateW : Nat}

/-- The kinds of the events that one command may produce, in order (spec/30_encoding.md R101, spec/42_frame_assembler.md
R180). -/
def OneCommandKinds (kinds : List EventKind) : Prop :=
  kinds = [] ∨ kinds = [.start] ∨ kinds = [.bit] ∨
    ∃ k : EventKind, (k = .frameInvalid ∨ k = .frameUnknown ∨ k = .frameKnown) ∧
      kinds = [.bit, .byte, .byte, .byte, .byte, k]

/-- The verdict is one of the three frame kinds (spec/42_frame_assembler.md R176). -/
theorem verdict_cases (known : Byte → Bool) (acc : BitVec 32) :
    verdict known acc = .frameInvalid ∨ verdict known acc = .frameUnknown ∨ verdict known acc = .frameKnown := by
  rw [verdict_eq]
  split_ifs
  · exact .inr (.inr rfl)
  · exact .inr (.inl rfl)
  · exact .inl rfl

theorem edge_oneCommandKinds (known : Byte → Bool) (ts : Timestamp tsw) (level : Bool) (r : Regs tsw rateW)
    (hn : r.nbits.toNat ≤ 31) : OneCommandKinds ((edge known ts level r).2.map Event.kind) := by
  have hout := edge_outcome known ts level r hn
  generalize edge known ts level r = out at hout ⊢
  cases hout with
  | halted | rateMissing | dropped | first | high | unmatched => exact .inl rfl
  | startMarker => exact .inr (.inl rfl)
  | bit => exact .inr (.inr (.inl rfl))
  | frame v => exact .inr (.inr (.inr ⟨_, verdict_cases known (r.windowFull v ts).acc, rfl⟩))

end kinds

/-- Only an accepted EDGE produces events, and they have one of the shapes of one command. -/
theorem tick_events (p : Params) (e : PortEdge p.tsw p.rateW) (r : Regs p.tsw p.rateW) (hn : r.nbits.toNat ≤ 31) :
    (p.tick e r).2 = [] ∨
      OneCommandKinds ((p.tick e r).2.map Event.kind) ∧ e.rst = false ∧ e.cmdValid = true ∧
        ∃ ts level, decodeCommand e.cmd = .edge ts level := by
  cases hr : e.rst with
  | true => exact .inl (by rw [p.tick_rst e r hr])
  | false =>
    cases hv : e.cmdValid with
    | false => exact .inl (by rw [p.tick_idle e r hr hv])
    | true =>
      rw [p.tick_accepted e r hr hv]
      cases decodeCommand e.cmd with
      | nop | setrate | reserved3 => exact .inl rfl
      | edge ts level => exact .inr ⟨edge_oneCommandKinds p.cmdKnown ts level r hn, rfl, rfl, ts, level, rfl⟩

/-- Settles O49: a step without a clock edge adds nothing, one with a clock edge what `tick_events` says. -/
theorem eventsPerCommand : Obligations.EventsPerCommand := by
  intro s t hinv h
  cases hp : s.cmdPort with
  | nil =>
    rw [step, nextAction_nil s hp] at h
    injection h with h
    exact ⟨[], by rw [← h, List.append_nil], .inl rfl, fun hne => absurd rfl hne⟩
  | cons e rest =>
    rw [step_eq_tick s e rest hp] at h
    injection h with h
    refine ⟨(Config.params.tick e s.regs).2, by rw [← h], ?_⟩
    rcases tick_events Config.params e s.regs hinv.nbits_le with hnil | ⟨hkinds, hr, hv, ts, level, hd⟩
    · exact ⟨.inl (congrArg _ hnil), fun hne => absurd hnil hne⟩
    · exact ⟨hkinds, fun _ => ⟨e, rest, ts, level, rfl, hr, hv, decode_of_edge hd⟩⟩

/-! ### Delivery under the reference timing -/

/-- Clock edges one after the other: the registers are handed on, the events follow. -/
theorem run_append (p : Params) (es fs : List (PortEdge p.tsw p.rateW)) (r : Regs p.tsw p.rateW) :
    p.run (es ++ fs) r = ((p.run fs (p.run es r).1).1, (p.run es r).2 ++ (p.run fs (p.run es r).1).2) := by
  induction es generalizing r with
  | nil => rfl
  | cons e es ih => rw [List.cons_append, Params.run_cons, ih, Params.run_cons, List.append_assoc]

section clockEdge
variable (p : Params) (c : Clocked p.tsw p.rateW) (e : PortEdge p.tsw p.rateW)

/-- The one clock edge as a list, when its input is taken. -/
abbrev takenEdge : List (PortEdge p.tsw p.rateW) := if c.takes e then [e] else []

/-- A reset is always taken, and loses what is not delivered (spec/70_reset_and_hazards.md R230, R233). -/
theorem clockEdge_rst (h : e.rst = true) : clockEdge p c e = { regs := Regs.reset, pending := [] } := by
  simp [clockEdge, h]

theorem run_takenEdge_rst (h : e.rst = true) : p.run (takenEdge p c e) c.regs = (Regs.reset, []) := by
  simp [takenEdge, Clocked.takes, h, p.tick_rst e c.regs h]

/-- While an event is on the port no command is taken (spec/30_encoding.md R105, log entry 10). -/
theorem run_takenEdge_busy (ev : Event p.tsw) (rest : List (Event p.tsw)) (r : Regs p.tsw p.rateW) (h : e.rst = false) :
    p.run (takenEdge p ⟨r, ev :: rest⟩ e) r = (r, []) := by
  simp [takenEdge, Clocked.takes, Clocked.cmdReady, h]

/-- With no event on the port the clock edge is run, whether a command is taken or none is presented. -/
theorem run_takenEdge_ready (r : Regs p.tsw p.rateW) (h : e.rst = false) :
    p.run (takenEdge p ⟨r, []⟩ e) r = p.tick e r := by
  cases hv : e.cmdValid with
  | false => simp [takenEdge, Clocked.takes, h, hv, p.tick_idle e r h hv]
  | true => simp [takenEdge, Clocked.takes, Clocked.cmdReady, hv]

/-- One clock edge, registers: those of the input taken. -/
theorem clockEdge_regs : (clockEdge p c e).regs = (p.run (takenEdge p c e) c.regs).1 := by
  cases hr : e.rst with
  | true => rw [clockEdge_rst p c e hr, run_takenEdge_rst p c e hr]
  | false =>
    obtain ⟨r, _ | ⟨ev, rest⟩⟩ := c
    · rw [clockEdge_ready p e r hr, run_takenEdge_ready p e r hr]
    · rw [clockEdge_delivers p e r ev rest hr, run_takenEdge_busy p e ev rest r hr]

/-- One clock edge without a reset: no event is lost, doubled or reordered. -/
theorem clockEdge_conserves_events (hr : e.rst = false) :
    c.pending ++ (p.run (takenEdge p c e) c.regs).2 = c.shown.toList ++ (clockEdge p c e).pending := by
  obtain ⟨r, _ | ⟨ev, rest⟩⟩ := c
  · rw [clockEdge_ready p e r hr, run_takenEdge_ready p e r hr]
    rfl
  · rw [clockEdge_delivers p e r ev rest hr, run_takenEdge_busy p e ev rest r hr, List.append_nil]
    rfl

/-- The event on the port is the first of those not yet delivered. -/
theorem shown_sublist_pending {tsw rateW : Nat} (c : Clocked tsw rateW) : c.shown.toList.Sublist c.pending := by
  obtain ⟨r, _ | ⟨ev, rest⟩⟩ := c
  · exact List.Sublist.refl _
  · exact List.singleton_sublist.2 List.mem_cons_self

/-- One clock edge, a reset or not: events may be lost, none is doubled, reordered or added. -/
theorem clockEdge_events_sublist :
    (c.shown.toList ++ (clockEdge p c e).pending).Sublist (c.pending ++ (p.run (takenEdge p c e) c.regs).2) := by
  cases hr : e.rst with
  | false => rw [clockEdge_conserves_events p c e hr]
  | true =>
    rw [clockEdge_rst p c e hr, run_takenEdge_rst p c e hr, List.append_nil, List.append_nil]
    exact shown_sublist_pending c

end clockEdge

section clockRun
variable (p : Params) (edges : List (PortEdge p.tsw p.rateW)) (c : Clocked p.tsw p.rateW)

theorem clockRun_regs : (clockRun p edges c).regs = (p.run (clockTaken p edges c) c.regs).1 := by
  induction edges generalizing c with
  | nil => rfl
  | cons e es ih => rw [clockRun, clockTaken, run_append, ih, clockEdge_regs]

theorem clockRun_conserves_events (h : ∀ e ∈ edges, e.rst = false) :
    c.pending ++ (p.run (clockTaken p edges c) c.regs).2 = clockShown p edges c ++ (clockRun p edges c).pending := by
  induction edges generalizing c with
  | nil => exact List.append_nil _
  | cons e es ih =>
    obtain ⟨he, hes⟩ := List.forall_mem_cons.1 h
    rw [clockRun, clockShown, clockTaken, run_append, ← clockEdge_regs, ← List.append_assoc,
      clockEdge_conserves_events p c e he, List.append_assoc, ih (clockEdge p c e) hes, List.append_assoc]

theorem clockRun_events_sublist :
    (clockShown p edges c ++ (clockRun p edges c).pending).Sublist
      (c.pending ++ (p.run (clockTaken p edges c) c.regs).2) := by
  induction edges generalizing c with
  | nil => exact List.sublist_append_left _ _
  | cons e es ih =>
    have hrest := (ih (clockEdge p c e)).append_left c.shown.toList
    have hedge := (clockEdge_events_sublist p c e).append_right
      (p.run (clockTaken p es (clockEdge p c e)) (clockEdge p c e).regs).2
    rw [clockRun, clockShown, clockTaken, run_append, ← clockEdge_regs, List.append_assoc, ← List.append_assoc c.pending]
    exact hrest.trans (List.append_assoc .. ▸ hedge)

end clockRun

/-- Settles O52: each clause by induction on the clock edges, from the rule for one clock edge. -/
theorem clockedPortsRefineTheSteps : Obligations.ClockedPortsRefineTheSteps := fun p edges c =>
  ⟨clockRun_regs p edges c, clockRun_conserves_events p edges c, clockRun_events_sublist p edges c, clockEdge_rst p c⟩

end Sys2Proof.Machine
end

section
/-!
SETRATE and the timing-profile function of spec/40_setrate_timing_profile.md: what one SETRATE writes (R120 to R122), why the
later of two decides (R128), and the order, growth and low ranges of the profile function (R127).
-/

namespace Sys2Proof.Machine
variable {tsw rateW : Nat}

/-! ### One SETRATE -/

/-- Settles O18: an accepted rate writes the profile function's record, which is the one of R121; by default every nonzero rate
is accepted. -/
theorem setrateLoadsTheProfile : Obligations.SetrateLoadsTheProfile := by
  refine ⟨fun tsw rateW supported rate r hf hz hs => ?_, fun s rate hf hz => ?_⟩
  · exact ⟨profileOf rate.toNat rateW, setrate_of_accepted supported rate r hf hz hs, profileOf_isOf rate⟩
  · have hs := (Config.RATE_SUPPORTED_iff rate).2 hz
    refine ⟨profileOf rate.toNat, ?_, profileOf_isOf rate⟩
    rw [exec_setrate, setrate_of_accepted _ rate s.regs hf hz hs]
    rfl

/-- Settles O19: a refused rate writes the cleared profile and withdraws it, which is what the gate of
spec/41_edge_classifier.md R142 asks of the next EDGE. -/
theorem setrateWithoutRateInvalidates : Obligations.SetrateWithoutRateInvalidates := by
  refine ⟨fun supported rate r hf hr => ?_, fun s hf => ?_, Config.RATE_SUPPORTED_iff⟩
  · rw [setrate_of_refused supported rate r hf hr]
    exact ⟨rfl, fun known ts level => edge_of_rateMissing known ts level (r.writeProfile Profile.zero false) hf rfl⟩
  · rw [exec_setrate, setrate_of_refused _ 0 s.regs hf (.inl rfl)]
    rfl

/-! ### Two SETRATEs -/

theorem Regs.writeProfile_writeProfile (r : Regs tsw rateW) (P Q : Profile rateW) (valid valid' : Bool) :
    (r.writeProfile P valid).writeProfile Q valid' = r.writeProfile Q valid' := rfl

/-- SETRATE reads nothing of the profile it replaces. -/
theorem setrate_writeProfile (supported : Count rateW → Bool) (rate : Count rateW) {r : Regs tsw rateW} (hf : r.fault = false)
    (P : Profile rateW) (valid : Bool) : setrate supported rate (r.writeProfile P valid) = setrate supported rate r := by
  cases hok : rateOk supported rate <;> simp [setrate, hf, hok, Regs.writeProfile_writeProfile]

/-- The later of two SETRATEs decides: the earlier one does nothing while `fault = 1`, and else writes the profile only. -/
theorem setrate_setrate (supported : Count rateW → Bool) (a b : Count rateW) (r : Regs tsw rateW) :
    setrate supported b (setrate supported a r) = setrate supported b r := by
  rcases setrate_cases supported a r with ⟨_, heq⟩ | ⟨hf, _, heq⟩ | ⟨hf, _, heq⟩
  · rw [heq]
  · rw [heq, setrate_writeProfile supported b hf]
  · rw [heq, setrate_writeProfile supported b hf]

/-- Settles O20: by the law of two SETRATEs, for `exec` at the default of `RATE_SUPPORTED`. -/
theorem lastSetrateWins : Obligations.LastSetrateWins := by
  refine ⟨fun supported a b r => setrate_setrate supported a b r, fun a b s => ⟨_, exec_setrate a s, ?_⟩⟩
  simp only [exec_setrate, setrate_setrate]

/-! ### The profile function -/

section profileFunction
variable (rate : Count rateW)

/-- `margin`, then the entries in their order, then the rate. -/
theorem profileOf_ordered :
    (profileOf rate.toNat rateW).margin ≤ (profileOf rate.toNat rateW).bit1Hi ∧
    (profileOf rate.toNat rateW).bit1Hi ≤ (profileOf rate.toNat rateW).bit1Lo ∧
    (profileOf rate.toNat rateW).bit1Lo ≤ (profileOf rate.toNat rateW).startbitLo ∧
    (profileOf rate.toNat rateW).startbitLo ≤ (profileOf rate.toNat rateW).startbitHi ∧
    (profileOf rate.toNat rateW).startbitHi ≤ rate := by
  obtain ⟨hsHi, hsLo, hHi, hLo, hm⟩ := profileOf_toNat rate
  simp only [BitVec.le_def, hsHi, hsLo, hHi, hLo, hm]
  omega

/-- A larger rate has no smaller value. -/
theorem profileOf_mono {a b : Count rateW} (h : a ≤ b) :
    (profileOf a.toNat rateW).startbitHi ≤ (profileOf b.toNat rateW).startbitHi ∧
    (profileOf a.toNat rateW).startbitLo ≤ (profileOf b.toNat rateW).startbitLo ∧
    (profileOf a.toNat rateW).bit1Hi ≤ (profileOf b.toNat rateW).bit1Hi ∧
    (profileOf a.toNat rateW).bit1Lo ≤ (profileOf b.toNat rateW).bit1Lo ∧
    (profileOf a.toNat rateW).margin ≤ (profileOf b.toNat rateW).margin := by
  obtain ⟨hsHi, hsLo, hHi, hLo, hm⟩ := profileOf_toNat a
  obtain ⟨hsHi', hsLo', hHi', hLo', hm'⟩ := profileOf_toNat b
  rw [BitVec.le_def] at h
  simp only [BitVec.le_def, hsHi, hsLo, hHi, hLo, hm, hsHi', hsLo', hHi', hLo', hm']
  omega

/-- The same of the entries by their index (spec/20_memory.md R61); those of BIT0 are the high entry of BIT1. -/
theorem profileOf_lut_mono {a b : Count rateW} (h : a ≤ b) (p : Pattern) (ph : Phase) :
    (profileOf a.toNat rateW).lut p ph ≤ (profileOf b.toNat rateW).lut p ph := by
  obtain ⟨hsHi, hsLo, hHi, hLo, -⟩ := profileOf_mono h
  match p, ph with
  | .start, .hi => exact hsHi
  | .start, .lo => exact hsLo
  | .bit1, .lo => exact hLo
  | .bit1, .hi | .bit0, .hi | .bit0, .lo => exact hHi

/-- The rates whose record is that of rate 0. -/
theorem profileOf_eq_zero (h : rate.toNat ≤ 111) : profileOf rate.toNat rateW = Profile.zero := by
  have hsHi : rate.toNat * 9 / 1000 = 0 := by omega
  have hsLo : rate.toNat * 9 / 2000 = 0 := by omega
  have hHi : rate.toNat * 11 / 20000 = 0 := by omega
  have hLo : rate.toNat * 17 / 10000 = 0 := by omega
  simp only [profileOf, hsHi, hsLo, hHi, hLo]
  rfl

theorem profileOf_bit1Hi_eq_zero (h : rate.toNat ≤ 1818) : (profileOf rate.toNat rateW).bit1Hi = 0 := by
  obtain ⟨-, -, hHi, -, -⟩ := profileOf_toNat rate
  refine BitVec.eq_of_toNat_eq ?_
  rw [hHi, BitVec.ofNat_eq_ofNat, BitVec.toNat_zero]
  omega

theorem profileOf_margin_eq_zero (h : rate.toNat ≤ 3636) : (profileOf rate.toNat rateW).margin = 0 := by
  obtain ⟨-, -, -, -, hm⟩ := profileOf_toNat rate
  refine BitVec.eq_of_toNat_eq ?_
  rw [hm, BitVec.ofNat_eq_ofNat, BitVec.toNat_zero]
  omega

end profileFunction

/-- Settles O21: the order, the growth and the three low ranges, each by its lemma above. -/
theorem profileFunctionProperties : Obligations.ProfileFunctionProperties := by
  refine fun rateW => ⟨fun rate => ?order, fun a b h => ?growth, fun rate => ?low⟩
  case order =>
    obtain ⟨-, -, -, -, hbit0Hi, hbit0Lo, hmargin⟩ := profileOf_isOf rate
    exact ⟨hmargin, hbit0Hi, hbit0Lo, profileOf_ordered rate⟩
  case growth =>
    obtain ⟨-, -, -, -, hmargin⟩ := profileOf_mono h
    exact ⟨profileOf_lut_mono h, hmargin⟩
  case low => exact ⟨profileOf_eq_zero rate, profileOf_bit1Hi_eq_zero rate, profileOf_margin_eq_zero rate⟩

end Sys2Proof.Machine
end

section
/-!
The edge classifier of spec/41_edge_classifier.md: the equation of EDGE for each reading of a consumed edge (R146 to R154), the
registers it leaves, the next state (R155), and what the alternation of edges says of the two intervals that are judged (R156,
R157).
-/

namespace Sys2Proof.Machine
variable {tsw rateW : Nat}

/-! ### The frame trigger -/

section frameTrigger
variable (known : Byte → Bool) (out : Regs tsw rateW × List (Event tsw))

theorem frameTrigger_of_not_full (h : out.1.nbits ≠ 32) : frameTrigger known out = out := if_neg h

theorem frameTrigger_of_full (h : out.1.nbits = 32) :
    frameTrigger known out = (out.1.frameReset, out.2 ++ frameEvents known out.1) := if_pos h

/-- The frame's events follow those of the classification (spec/42_frame_assembler.md R180). -/
theorem frameTrigger_events : ∃ more, (frameTrigger known out).2 = out.2 ++ more := by
  by_cases h : out.1.nbits = 32
  · exact ⟨_, congrArg Prod.snd (frameTrigger_of_full known out h)⟩
  · exact ⟨[], by rw [frameTrigger_of_not_full known out h, List.append_nil]⟩

end frameTrigger

/-! ### The equation of EDGE for each reading of the edge -/

/-- A consumed edge that falls, or finds `START`, stores its interval in `hi_distance` (R146, R153). -/
theorem edge_of_high (known : Byte → Bool) (ts : Timestamp tsw) {level : Bool} {r : Regs tsw rateW}
    (hc : r.consumes level = true) (hs : r.state ≠ .idle) (hl : level = false ∨ r.state = .start) (hn : r.nbits.toNat ≤ 31) :
    edge known ts level r = ((r.assignHigh (distance ts r.ref0)).recordEdge ts, []) := by
  have hcl : r.closesLow level = false := by
    rcases hl with h | h <;> simp [Regs.closesLow, h]
  rw [edge_of_not_closesLow known ts level r hc hs hcl]
  exact frameTrigger_of_not_full known _ (nbits_ne_32 _ hn)

section closesLow
variable (known : Byte → Bool) (ts : Timestamp tsw) {r : Regs tsw rateW} (hc : r.consumes true = true) (hs : r.state ≠ .idle)
  (hs' : r.state ≠ .start)
include hc hs hs'

/-- A pair of distances that fits no pattern (R152). -/
theorem edge_of_unmatched (hn : r.nbits.toNat ≤ 31) (hp : r.profile.ReadsNothing r.hiDistance (distance ts r.ref0)) :
    edge known ts true r = ((r.lowClosed ts).recordEdge ts, []) := by
  rw [edge_of_closesLow known ts r hc hs hs', classify_of_readsNothing ts (r.lowClosed ts) hp]
  exact frameTrigger_of_not_full known _ (nbits_ne_32 _ hn)

/-- A pair of distances that fits START (R150). -/
theorem edge_of_startMarker (hn : r.nbits.toNat ≤ 31) (hp : r.profile.Fits .start r.hiDistance (distance ts r.ref0)) :
    edge known ts true r = ((r.lowClosed ts).recordEdge ts, [startEvent r.ref1 ts]) := by
  rw [edge_of_closesLow known ts r hc hs hs', classify_of_start ts (r.lowClosed ts) hp]
  exact frameTrigger_of_not_full known _ (nbits_ne_32 _ hn)

/-- A pair of distances that reads as a bit, whatever `nbits` holds (R151, R154). -/
theorem edge_of_readsBit {v : Bool} (hp : r.profile.ReadsBit v r.hiDistance (distance ts r.ref0)) :
    edge known ts true r = frameTrigger known (r.windowFull v ts, [bitEvent v r.ref1 ts]) := by
  rw [edge_of_closesLow known ts r hc hs hs', classify_of_readsBit ts (r.lowClosed ts) v hp]
  rfl

/-- A bit that does not complete the window (spec/42_frame_assembler.md R170). -/
theorem edge_of_bit {v : Bool} (hn : r.nbits.toNat ≤ 30) (hp : r.profile.ReadsBit v r.hiDistance (distance ts r.ref0)) :
    edge known ts true r = (r.windowFull v ts, [bitEvent v r.ref1 ts]) := by
  rw [edge_of_readsBit known ts hc hs hs' hp]
  exact frameTrigger_of_not_full known _ (nbits_succ_ne_32 _ hn)

/-- The thirty-second bit (spec/42_frame_assembler.md R171, R179). -/
theorem edge_of_frame {v : Bool} (hn : r.nbits = 31) (hp : r.profile.ReadsBit v r.hiDistance (distance ts r.ref0)) :
    edge known ts true r =
      ((r.windowFull v ts).frameReset, bitEvent v r.ref1 ts :: frameEvents known (r.windowFull v ts)) := by
  have hfull : (r.windowFull v ts).nbits = 32 := congrArg (· + 1) hn
  rw [edge_of_readsBit known ts hc hs hs' hp, frameTrigger_of_full _ _ hfull, List.singleton_append]

end closesLow

/-! ### Gates -/

/-- Settles O23: the sample-rate gate. -/
theorem edgeWithoutProfileRaisesFault : Obligations.EdgeWithoutProfileRaisesFault := by
  intro s ts level hf hv
  rw [exec_edge, edge_of_rateMissing _ ts level s.regs hf hv, State.commit_no_events]
  rfl

/-- Settles O29: the polarity filter. -/
theorem droppedEdgeChangesNothing : Obligations.DroppedEdgeChangesNothing := by
  intro s ts level hf hv hl
  rw [exec_edge, edge_of_drops _ ts level s.regs hf hv hl, State.commit_no_events]

/-- EDGE in `IDLE`, on the whole state (R144). -/
theorem exec_edge_of_idle {s : State} (ts : Timestamp) {level : Bool} (hc : s.regs.consumes level = true)
    (hs : s.regs.state = .idle) : exec (.edge ts level) s = .next { s with regs := s.regs.recordFirst ts } := by
  obtain ⟨hf, hv, hl⟩ := (s.regs.consumes_iff level).1 hc
  rw [exec_edge, edge_of_idle _ ts level s.regs hf hv hl hs, State.commit_no_events]

/-- Settles O30: the `IDLE` arm. -/
theorem idleArmRecordsFirstReference : Obligations.IdleArmRecordsFirstReference := by
  intro s ts level hf hv hl hs
  rw [exec_edge_of_idle ts ((s.regs.consumes_iff level).2 ⟨hf, hv, hl⟩) hs]
  rfl

/-! ### The high phase -/

/-- EDGE where no low phase is closed, on the whole state. -/
theorem exec_edge_of_high {s : State} (ts : Timestamp) {level : Bool} (hc : s.regs.consumes level = true)
    (hs : s.regs.state ≠ .idle) (hl : level = false ∨ s.regs.state = .start) (hn : s.regs.nbits.toNat ≤ 31) :
    exec (.edge ts level) s =
      .next { s with regs := (s.regs.assignHigh (distance ts s.regs.ref0)).recordEdge ts } := by
  rw [exec_edge, edge_of_high _ ts hc hs hl hn, State.commit_no_events]

/-- Settles O31: by the second case of the assignment. -/
theorem highPhaseIsStored : Obligations.HighPhaseIsStored := by
  intro s ts level hf hv hp hs hl hn
  rw [exec_edge_of_high ts ((s.regs.consumes_iff level).2 ⟨hf, hv, hp⟩) hs hl hn]
  rfl

/-! ### The low phase -/

/-- The registers after an edge that closes a low phase: it was awaited as a rising one, so a falling one is awaited next. -/
theorem Regs.lowClosed_recordEdge_eq {r : Regs tsw rateW} (hp : r.awaitPol = true) (ts : Timestamp tsw) :
    (r.lowClosed ts).recordEdge ts =
      { r with
        loDistance := ts - r.ref0, state := .gotLow
        ref1 := r.ref0, ref0 := ts, nref := 2, awaitPol := false } := by
  rw [Regs.recordEdge, Regs.assignLow_awaitPol, hp]
  rfl

/-- Settles O32: no pattern fits, so the edge is recorded and nothing else is written. -/
theorem unmatchedPulseIsDropped : Obligations.UnmatchedPulseIsDropped := by
  intro s ts hf hv hp hs hs' hn hnone
  have hc := (s.regs.consumes_iff true).2 ⟨hf, hv, hp.symm⟩
  rw [exec_edge, edge_of_unmatched _ ts hc hs hs' hn hnone, State.commit_no_events, Regs.lowClosed_recordEdge_eq hp]

/-- Settles O33: the same registers, and the event of the marker. -/
theorem startMarkerLeavesTheAccumulator : Obligations.StartMarkerLeavesTheAccumulator := by
  intro s ts hf hv hp hs hs' hn hfits
  have hc := (s.regs.consumes_iff true).2 ⟨hf, hv, hp.symm⟩
  rw [exec_edge, edge_of_startMarker _ ts hc hs hs' hn hfits, Regs.lowClosed_recordEdge_eq hp]
  rfl

/-! ### Bits -/

section appendBit
variable {r : Regs tsw rateW} (hn : r.nbits.toNat ≤ 31) (v : Bool) (s e : Timestamp tsw)
include hn

/-- A bit goes to position `31 - nbits` of the accumulator, and no other position changes. -/
theorem Regs.appendBit_acc_getLsbD {i : Nat} (hi : i < 32) :
    (r.appendBit v s e).acc.getLsbD i = if i = 31 - r.nbits.toNat then v else r.acc.getLsbD i := by
  rw [Regs.appendBit_acc, if_pos hn, storeBit_getLsbD _ _ v (by omega) i hi]

/-- `bstart[k]` is written by the first bit of byte `k`. -/
theorem Regs.appendBit_bstart_get {k : Nat} (hk : k < 4) :
    (r.appendBit v s e).bstart.get k = if r.nbits.toNat = 8 * k then s else r.bstart.get k := by
  rw [Regs.appendBit_bstart, Spans.get_boundary_set _ _ 0 k s hn hk (by decide), Nat.add_zero]
  exact if_congr eq_comm rfl rfl

/-- `bend[k]` is written by the last bit of byte `k`. -/
theorem Regs.appendBit_bend_get {k : Nat} (hk : k < 4) :
    (r.appendBit v s e).bend.get k = if r.nbits.toNat = 8 * k + 7 then e else r.bend.get k := by
  rw [Regs.appendBit_bend, Spans.get_boundary_set _ _ 7 k e hn hk (by decide)]
  exact if_congr eq_comm rfl rfl

end appendBit

/-- Settles O34: the edge is recorded as any that closes a low phase, and `append_bit` writes the rest. -/
theorem acceptedBitIsStored : Obligations.AcceptedBitIsStored := by
  intro s ts v hf hv hp hs hs' hn hbit
  have hc := (s.regs.consumes_iff true).2 ⟨hf, hv, hp.symm⟩
  have hn' : s.regs.nbits.toNat ≤ 31 := Nat.le_succ_of_le hn
  refine ⟨_, _, _, _, ?_, nbits_succ_toNat _ hn',
    fun i hi => Regs.appendBit_acc_getLsbD hn' v s.regs.ref1 ts hi,
    fun k hk => Regs.appendBit_bstart_get hn' v s.regs.ref1 ts hk,
    fun k hk => Regs.appendBit_bend_get hn' v s.regs.ref1 ts hk⟩
  rw [exec_edge, edge_of_bit _ ts hc hs hs' hn hbit, Regs.windowFull_eq, Regs.lowClosed_recordEdge_eq hp]
  rfl

/-! ### The thirty-second bit -/

/-- With 31 bits held, a bit goes to position 0, its timestamp ends byte 3, and no start is written. -/
theorem Regs.appendBit_of_31 {r : Regs tsw rateW} (hn : r.nbits = 31) (v : Bool) (s e : Timestamp tsw) :
    r.appendBit v s e = { r with acc := storeBit r.acc 0 v, nbits := 32, bend := { r.bend with b3 := e } } := by
  rw [Regs.appendBit, hn]
  rfl

/-- An accumulator that differs from another in bit 0 at most, by its bits. -/
theorem eq_storeBit_zero {acc a : BitVec 32} {v : Bool} (h₀ : acc.getLsbD 0 = v)
    (h : ∀ i, 0 < i → acc.getLsbD i = a.getLsbD i) : acc = storeBit a 0 v := by
  apply BitVec.eq_of_getLsbD_eq
  intro i hi
  rw [storeBit_getLsbD a 0 v (by decide) i hi]
  split
  next hzero => rwa [hzero]
  next hpos => exact h i (Nat.pos_of_ne_zero hpos)

/-- Settles O35: the window is the accumulator with the bit at position 0; its events, then the frame reset. -/
theorem thirtySecondBitCompletesTheFrame : Obligations.ThirtySecondBitCompletesTheFrame := by
  intro s ts v acc hf hv hp hs hs' hn hbit hlast hrest
  have hc := (s.regs.consumes_iff true).2 ⟨hf, hv, hp.symm⟩
  have hwindow : s.regs.windowFull v ts =
      { (s.regs.lowClosed ts).recordEdge ts with acc := acc, nbits := 32, bend := { s.regs.bend with b3 := ts } } := by
    rw [eq_storeBit_zero hlast hrest]
    exact Regs.appendBit_of_31 (r := (s.regs.lowClosed ts).recordEdge ts) hn v s.regs.ref1 ts
  rw [exec_edge, edge_of_frame _ ts hc hs hs' hn hbit, hwindow, Regs.lowClosed_recordEdge_eq hp]
  rfl

/-! ### The next state -/

/-- Settles O36: by the outcomes of EDGE; only a completed window gives six events, and it alone ends in `IDLE`. -/
theorem nextStateTable : Obligations.NextStateTable := by
  intro tsw rateW known ts level r hc hn
  obtain ⟨hf, hv, hp⟩ := (r.consumes_iff level).1 hc
  have hout := edge_outcome known ts level r hn
  generalize edge known ts level r = out at hout ⊢
  cases hout with
  | halted h => exact absurd hf (by simp [h])
  | rateMissing _ h => exact absurd hv (by simp [h])
  | dropped _ _ h => exact absurd hp h
  | first _ hs => simp [hs]
  | high _ hs hl =>
    rcases hl with rfl | hst
    · cases hst : r.state with
      | idle => exact absurd hst hs
      | start | gotLow | gotHigh => rfl
    · simp [hst]
  | unmatched _ hs hs' hl | startMarker _ hs hs' hl | bit _ _ hs hs' hl =>
    subst hl
    cases hst : r.state with
    | idle => exact absurd hst hs
    | start => exact absurd hst hs'
    | gotLow | gotHigh => rfl
  | frame => rfl

/-! ### Alternation of edges -/

/-- Settles O17: a step leaves the registers or is a clock edge of the default realisation. -/
theorem stepKeepsAlternation : Obligations.StepKeepsAlternation := by
  intro s t h hstep
  rcases step_regs s t hstep with heq | ⟨e, _, _, heq⟩
  · rwa [heq]
  · rw [heq]
    exact tick_keeps_alternates Config.params e s.regs h

/-- A rising edge that is awaited outside `IDLE` and `START` finds `GOT_HIGH`. -/
theorem Regs.Alternates.gotHigh {r : Regs tsw rateW} (h : r.Alternates) (hp : r.awaitPol = true) (hs : r.state ≠ .idle)
    (hs' : r.state ≠ .start) : r.state = .gotHigh := by
  cases hst : r.state with
  | idle => exact absurd hst hs
  | start => exact absurd hst hs'
  | gotLow => exact absurd (h.gotLow_awaits_falling hst) (by simp [hp])
  | gotHigh => rfl

/-- Settles O38: the high interval is the one measured when `GOT_HIGH` was entered, and a bit's event comes first whether or not
it completes a window. -/
theorem bitIsReadFromThreeEdges : Obligations.BitIsReadFromThreeEdges := by
  intro s ts halt hf hv hp hs hs'
  have hc := (s.regs.consumes_iff true).2 ⟨hf, hv, hp.symm⟩
  have hst := halt.gotHigh hp hs hs'
  have hhi : s.regs.hiDistance = s.regs.ref0 - s.regs.ref1 := halt.gotHigh_measured hst
  rw [← hhi]
  refine ⟨⟨hst, rfl, ?span⟩, fun v hbit => ?bit, fun hn hfits => ?start, fun hn hnone => ?nothing⟩
  case span => rw [hhi, sub_add_sub_cancel']
  case bit =>
    obtain ⟨more, hmore⟩ := frameTrigger_events Config.CMD_KNOWN (s.regs.windowFull v ts, [bitEvent v s.regs.ref1 ts])
    refine ⟨_, more, exec_edge ts true s, ?_⟩
    rw [State.commit_events, edge_of_readsBit _ ts hc hs hs' hbit, hmore]
    rfl
  case start =>
    refine ⟨_, exec_edge ts true s, ?_⟩
    rw [State.commit_events, edge_of_startMarker _ ts hc hs hs' hn hfits]
    rfl
  case nothing =>
    refine ⟨_, exec_edge ts true s, ?_⟩
    rw [State.commit_events, edge_of_unmatched _ ts hc hs hs' hn hnone, List.append_nil]

/-- The registers after the falling and the rising edge that follow a frame reset (R157): the interval between them is stored
as a high one. -/
abbrev Regs.pulseSkipped (r : Regs tsw rateW) (ts₁ ts₂ : Timestamp tsw) : Regs tsw rateW :=
  ((r.recordFirst ts₁).assignHigh (distance ts₂ ts₁)).recordEdge ts₂

/-- Settles O39: the `IDLE` arm, then twice the second case of the assignment, in `START` and on a falling edge. -/
theorem firstPulseAfterFrameIsSkipped : Obligations.FirstPulseAfterFrameIsSkipped := by
  intro s ts₁ ts₂ ts₃ hinv hf hv hs hp
  have hp₁ : (s.regs.recordFirst ts₁).awaitPol = true := congrArg Bool.not hp
  have hp₂ : (s.regs.pulseSkipped ts₁ ts₂).awaitPol = false := congrArg Bool.not hp₁
  have hc₁ : s.regs.consumes false = true := (s.regs.consumes_iff false).2 ⟨hf, hv, hp.symm⟩
  have hc₂ : (s.regs.recordFirst ts₁).consumes true = true := (Regs.consumes_iff _ true).2 ⟨hf, hv, hp₁.symm⟩
  have hc₃ : (s.regs.pulseSkipped ts₁ ts₂).consumes false = true := (Regs.consumes_iff _ false).2 ⟨hf, hv, hp₂.symm⟩
  refine ⟨{ s with regs := s.regs.recordFirst ts₁ }, { s with regs := s.regs.pulseSkipped ts₁ ts₂ },
    exec_edge_of_idle ts₁ hc₁ hs, exec_edge_of_high ts₂ hc₂ nofun (.inr rfl) hinv.nbits_le, rfl, rfl, hp₂, ?_⟩
  have hlast := exec_edge_of_high (s := { s with regs := s.regs.pulseSkipped ts₁ ts₂ }) ts₃ hc₃ nofun (.inl rfl) hinv.nbits_le
  rw [hlast, Regs.recordEdge, Regs.assignHigh_awaitPol, hp₂]
  rfl

/-! ### The measurement -/

/-- Settles O40: no difference below `2^TSW` wraps. -/
theorem distanceIsExactUnderHostObligation : Obligations.DistanceIsExactUnderHostObligation := by
  rintro tsw a b ⟨hle, hlt⟩
  have hsub : distance (BitVec.ofNat tsw b) (BitVec.ofNat tsw a) = BitVec.ofNat tsw (b - a) := by
    rw [distance, sub_eq_iff_eq_add, ← BitVec.ofNat_add, Nat.sub_add_cancel hle]
  rw [hsub, BitVec.toNat_ofNat, Nat.mod_eq_of_lt hlt]

end Sys2Proof.Machine
end

section
/-!
The frame assembler's checks and verdict of spec/42_frame_assembler.md, on the four bytes of the accumulator (R172): the header
and the checksum as equations between bytes (R174, R175), the look-up and the verdict (R176, R177), and the frame reset (R179).
-/

namespace Sys2Proof.Machine

/-! ### The header check -/

theorem hdrOk_iff (acc : BitVec 32) : hdrOk acc = true ↔ frameByte acc 0 = 0xCA ∧ frameByte acc 1 = 0x34 := by
  rw [hdrOk, Bool.and_eq_true, beq_iff_eq, beq_iff_eq]

/-- Bytes 0 and 1, side by side, are the upper half of the accumulator (spec/42_frame_assembler.md R172). -/
theorem frameByte_zero_append_one (acc : BitVec 32) : frameByte acc 0 ++ frameByte acc 1 = acc.extractLsb' 16 16 :=
  BitVec.extractLsb'_append_extractLsb'_eq_extractLsb' rfl

/-- Settles O44: the upper half is the two header bytes side by side, and so are the halves of `0xCA34`. -/
theorem headerCheckIsUpperHalf : Obligations.HeaderCheckIsUpperHalf := by
  refine fun acc => ⟨hdrOk_iff acc, ?upperHalf⟩
  case upperHalf =>
    have hconst : (0xCA34 : BitVec 16) = (0xCA : Byte) ++ (0x34 : Byte) := rfl
    rw [hdrOk_iff, ← frameByte_zero_append_one, hconst]
    refine ⟨fun ⟨h0, h1⟩ => by rw [h0, h1], fun h => ⟨?_, ?_⟩⟩
    · simpa only [BitVec.extractLsb'_append_eq_left] using congrArg (BitVec.extractLsb' 8 8) h
    · simpa only [BitVec.extractLsb'_append_eq_right] using congrArg (BitVec.extractLsb' 0 8) h

/-! ### The checksum -/

theorem sumOk_iff (acc : BitVec 32) : sumOk acc = true ↔ frameByte acc 2 = frameByte acc 3 ^^^ 0xFF := by
  rw [sumOk, beq_iff_eq]

/-- The XOR with byte 3 moves to the other side of the check (spec/42_frame_assembler.md R175). -/
theorem sumOk_iff_xor (acc : BitVec 32) : sumOk acc = true ↔ frameByte acc 2 ^^^ frameByte acc 3 = 0xFF := by
  have hcancel : (frameByte acc 3 ^^^ 0xFF) ^^^ frameByte acc 3 = 0xFF := by
    rw [BitVec.xor_comm (frameByte acc 3), BitVec.xor_assoc, BitVec.xor_self, BitVec.xor_zero]
  rw [sumOk_iff, ← BitVec.xor_left_inj (frameByte acc 3), hcancel]

/-- The checksum does not tell bytes 2 and 3 apart: it is a condition on their sum. -/
theorem sumOk_of_swapped {acc acc' : BitVec 32} (h2 : frameByte acc' 2 = frameByte acc 3)
    (h3 : frameByte acc' 3 = frameByte acc 2) : sumOk acc' = sumOk acc := by
  rw [Bool.eq_iff_iff, sumOk_iff_add, sumOk_iff_add, h2, h3, Nat.add_comm]

/-- `sumOk_of_swapped`: the two orders of the worked example's bytes. -/
theorem witness_swapped : sumOk 0xCA34ED12 = sumOk 0xCA3412ED := sumOk_of_swapped (by decide) (by decide)

/-- Settles O45: the three forms, the symmetry and the worked example (spec/42_frame_assembler.md R175). -/
theorem checksumIsTheComplement : Obligations.ChecksumIsTheComplement :=
  ⟨fun acc => ⟨sumOk_iff acc, sumOk_iff_add acc, sumOk_iff_xor acc, fun _ => sumOk_of_swapped⟩, by decide, by decide⟩

/-! ### The look-up and the verdict -/

theorem tabAddr_eq_some_iff (acc : BitVec 32) (code : Byte) :
    tabAddr acc = some code ↔ hdrOk acc = true ∧ sumOk acc = true ∧ code = frameByte acc 2 := by
  rw [tabAddr, Option.ite_none_right_eq_some, Bool.and_eq_true, and_assoc, Option.some.injEq, eq_comm (a := code)]

theorem verdict_of_checks_fail (known : Byte → Bool) {acc : BitVec 32} (h : hdrOk acc = false ∨ sumOk acc = false) :
    verdict known acc = .frameInvalid := by
  rw [verdict_eq, Bool.and_eq_false_iff.2 h, if_neg Bool.false_ne_true]

theorem verdict_of_checks_pass (known : Byte → Bool) {acc : BitVec 32} (hh : hdrOk acc = true) (hs : sumOk acc = true) :
    verdict known acc = if known (frameByte acc 2) then .frameKnown else .frameUnknown := by
  rw [verdict_eq, if_pos (Bool.and_eq_true_iff.2 ⟨hh, hs⟩)]

/-- Settles O46: the rows by which check fails and, when none does, by the table's answer. -/
theorem verdictTable : Obligations.VerdictTable := by
  refine fun known acc => ⟨fun hh => ?header, fun _ hs => ?checksum, fun hh hs hk => ?unknown, fun hh hs hk => ?known,
    tabAddr_eq_some_iff acc⟩
  case header => exact verdict_of_checks_fail known (.inl hh)
  case checksum => exact verdict_of_checks_fail known (.inr hs)
  case unknown =>
    have hk' : known (frameByte acc 2) = false := hk
    rw [verdict_of_checks_pass known hh hs, hk', if_neg Bool.false_ne_true]
  case known => exact (verdict_of_checks_pass known hh hs).trans (if_pos hk)

/-! ### The frame reset -/

/-- Settles O47: by the definition, with `Spans.zero` written out. -/
theorem frameResetClears : Obligations.FrameResetClears := fun _ => rfl

end Sys2Proof.Machine
end

section
/-!
The commands and clock edges that change nothing (spec/43_nop_reserved.md): NOP (R190), the reserved opcode (R191) and a clock
edge with no command accepted (R192).
-/

namespace Sys2Proof.Machine

/-! ### NOP and the reserved opcode -/

/-- Settles O27: the meaning of NOP asks neither `fault` nor `profile_valid`. -/
theorem nopIsTheIdentity : Obligations.NopIsTheIdentity := exec_nop

/-- Settles O28: the meaning of the opcode, and the well-formedness check on it. -/
theorem reservedOpcodeChangesNothing : Obligations.ReservedOpcodeChangesNothing := ⟨exec_reserved3, rfl⟩

/-! ### No command accepted -/

/-- With a silent host the step holds. -/
theorem step_nil (s : State) (h : s.cmdPort = []) : step s = .next s := by
  rw [step, nextAction_nil s h]

/-- With neither `rst` nor `cmd_valid` the clock edge goes by. -/
theorem step_idle (s : State) (e : PortEdge) (rest : List PortEdge) (h : s.cmdPort = e :: rest) (hr : e.rst = false)
    (hv : e.cmdValid = false) : step s = .next { s with cmdPort := rest } := by
  rw [step, nextAction_idle s e rest h hr hv]

/-- Settles O11: the rules `step_nil` and `step_idle`. -/
theorem noCommandChangesNothing : Obligations.NoCommandChangesNothing := ⟨step_nil, step_idle⟩

end Sys2Proof.Machine
end

section
/-!
The fault of spec/60_exceptions.md: it arises from an EDGE without a profile and from nothing else (R201), with no event of that
EDGE (R209); while it stands every command is discarded (R210); only a hardware reset ends it (R211).
-/

namespace Sys2Proof

open Machine

namespace Machine
variable {tsw rateW : Nat}

/-! ### What SETRATE and EDGE do to `fault` -/

/-- SETRATE raises nothing (spec/40_setrate_timing_profile.md R120). -/
theorem setrate_fault (supported : Count rateW → Bool) (rate : Count rateW) (r : Regs tsw rateW) :
    (setrate supported rate r).fault = r.fault := by
  rcases setrate_cases supported rate r with ⟨_, h⟩ | ⟨_, _, h⟩ | ⟨_, _, h⟩ <;> rw [h] <;> rfl

/-- A consumed edge raises nothing: the one write of `fault` is behind the sample-rate gate. -/
theorem EdgeRegs.fault_eq {ts : Timestamp tsw} {level : Bool} {r q : Regs tsw rateW} (h : EdgeRegs ts level r q)
    (hc : r.consumes level = true) : q.fault = r.fault := by
  induction h with
  | rateMissing h => exact absurd hc (Bool.eq_false_iff.1 h)
  | frame q _ ih => exact ih
  | _ => rfl

/-- After an EDGE the block is halted exactly when it was before or has no profile: the gates of
spec/41_edge_classifier.md R141 to R143 in turn. -/
theorem edge_fault (known : Byte → Bool) (ts : Timestamp tsw) (level : Bool) (r : Regs tsw rateW) :
    (edge known ts level r).1.fault = (r.fault || !r.profileValid) := by
  cases hf : r.fault with
  | true => rw [edge_of_fault known ts level r hf, hf, Bool.true_or]
  | false =>
    cases hv : r.profileValid with
    | false => rw [edge_of_rateMissing known ts level r hf hv]; rfl
    | true =>
      by_cases hl : level = r.awaitPol
      · exact ((edge_regs known ts level r).fault_eq ((r.consumes_iff level).2 ⟨hf, hv, hl⟩)).trans hf
      · rw [edge_of_drops known ts level r hf hv hl]
        exact hf

/-- A word reads as EDGE for the decoder of instructions exactly when it does for the one of commands. -/
theorem decode_eq_edge_iff {w : CmdWord} {ts : Timestamp} {level : Bool} :
    decode w = .edge ts level ↔ decodeCommand w = .edge ts level :=
  ⟨fun h => by rw [← command_decode, h]; rfl, decode_of_edge⟩

end Machine

/-! ### Commands and clock edges -/

section fault
variable (p : Params) (e : PortEdge p.tsw p.rateW) {r : Regs p.tsw p.rateW}

/-- Of the four commands only EDGE raises the fault, and it does so without a profile only. -/
theorem Params.accept_raises_fault_iff (c : Command p.tsw p.rateW) (hf : r.fault = false) :
    (p.accept c r).1.fault = true ↔ r.profileValid = false ∧ ∃ ts level, c = .edge ts level := by
  cases c with
  | nop => simp [Params.accept, hf]
  | setrate rate => simp [setrate_fault, hf]
  | edge ts level => simp [edge_fault, hf]
  | reserved3 => simp [Params.accept, hf]

/-- A clock edge raises the fault exactly when it accepts an EDGE without a profile (spec/60_exceptions.md R201). -/
theorem Params.tick_raises_fault_iff (hf : r.fault = false) :
    (p.tick e r).1.fault = true ↔
      r.profileValid = false ∧ e.rst = false ∧ e.cmdValid = true ∧ ∃ ts level, decodeCommand e.cmd = .edge ts level := by
  cases hr : e.rst with
  | true => simp [p.tick_rst e r hr, Regs.reset]
  | false =>
    cases hv : e.cmdValid with
    | false => simp [p.tick_idle e r hr hv, hf]
    | true => simp [p.tick_accepted e r hr hv, p.accept_raises_fault_iff _ hf]

/-- The clock edge that raises the fault writes the fault registers only and produces no event (spec/60_exceptions.md R208,
R209). -/
theorem Params.tick_of_raises_fault (hf : r.fault = false) (h : (p.tick e r).1.fault = true) :
    p.tick e r = (r.raiseSampleRateMissing, []) := by
  obtain ⟨hv, hr, hc, ts, level, hd⟩ := (p.tick_raises_fault_iff e hf).1 h
  rw [p.tick_accepted e r hr hc, hd, p.accept_edge, edge_of_rateMissing _ ts level r hf hv]

/-- While `fault = 1` a clock edge without a reset changes nothing (spec/60_exceptions.md R210). -/
theorem Params.tick_of_fault (hf : r.fault = true) (hr : e.rst = false) : p.tick e r = (r, []) := by
  cases hv : e.cmdValid with
  | false => exact p.tick_idle e r hr hv
  | true => rw [p.tick_accepted e r hr hv, accept_of_fault p _ r hf]

end fault

namespace Machine

/-! ### Commands and steps at the defaults -/

/-- Settles O24: `exec` is the default realisation, which discards every command while halted. -/
theorem haltedBlockDiscardsCommands : Obligations.HaltedBlockDiscardsCommands := by
  intro i s hf
  rw [exec_eq_accept, accept_of_fault Config.params i.command s.regs hf, State.commit_no_events]

/-- Settles O25: with an empty port the state is held, else the step is its clock edge, for which `tick_raises_fault_iff`
and `tick_of_raises_fault` say it. -/
theorem faultArisesOnlyFromEdgeWithoutProfile : Obligations.FaultArisesOnlyFromEdgeWithoutProfile := by
  intro s t h hf
  cases hp : s.cmdPort with
  | nil =>
    rw [step_nil s hp] at h
    injection h with h
    subst h
    simp [hf]
  | cons e rest =>
    rw [step_eq_tick s e rest hp] at h
    injection h with h
    subst h
    refine ⟨(Config.params.tick_raises_fault_iff e hf).trans (and_congr_right fun _ => ⟨?accepted, ?raises⟩),
      fun hraised => ?noEvent⟩
    case accepted =>
      rintro ⟨hr, hv, ts, level, hd⟩
      exact ⟨e, rest, ts, level, rfl, hr, hv, decode_of_edge hd⟩
    case raises =>
      rintro ⟨e', rest', ts, level, heq, hr, hv, hd⟩
      obtain ⟨rfl, rfl⟩ := List.cons.inj heq
      exact ⟨hr, hv, ts, level, decode_eq_edge_iff.1 hd⟩
    case noEvent => rw [Config.params.tick_of_raises_fault e hf hraised, List.append_nil]

/-- Settles O26: any step without a reset edge keeps the registers of a halted block, by `tick_of_fault`. -/
theorem faultEndsOnlyByReset : Obligations.FaultEndsOnlyByReset := by
  intro s t h hf ht
  have hne : t.regs ≠ s.regs := fun heq => by simp [heq, hf] at ht
  obtain ⟨e, rest, hp, heq⟩ := (step_regs s t h).resolve_left hne
  cases hr : e.rst with
  | true => exact ⟨by rw [heq, Config.params.tick_rst e s.regs hr]; rfl, e, rest, hp, hr⟩
  | false => exact absurd (heq.trans (congrArg Prod.fst (Config.params.tick_of_fault e hf hr))) hne

end Machine
end Sys2Proof
end

section
/-!
Hardware reset and the low sample rates of spec/70_reset_and_hazards.md: the reset edge (R230, R232, R233), what a run that begins
with one depends on (R231), and which patterns the profile of a rate tells apart (R244).
-/

namespace Sys2Proof.Machine
variable {tsw rateW : Nat}

/-! ### The reset edge -/

/-- With `rst = 1` neither the registers nor the word on the port matter. -/
theorem step_rst (s : State) (e : PortEdge) (rest : List PortEdge) (h : s.cmdPort = e :: rest) (hr : e.rst = true) :
    step s = .next { s with regs := Regs.reset, cmdPort := rest } := by
  rw [step, nextAction_rst s e rest h hr]

/-- Settles O10: the rule `step_rst`. -/
theorem resetEdgeRestoresEveryRegister : Obligations.ResetEdgeRestoresEveryRegister := step_rst

/-! ### Runs that begin with a reset -/

/-- Any number of steps from any state: the run of the default realisation over as many clock edges as the port still has,
after which the state is held. -/
theorem coreRun_eq_run_take (k : Nat) (s : State) :
    Host.Core.run core k s =
      .next
        { regs := (Config.params.run (s.cmdPort.take k) s.regs).1
          cmdPort := s.cmdPort.drop k
          events := s.events ++ (Config.params.run (s.cmdPort.take k) s.regs).2 } := by
  induction k generalizing s with
  | zero =>
    rw [List.take_zero, Params.run_nil, List.append_nil]
    exact run_zero s
  | succ k ih =>
    cases hp : s.cmdPort with
    | nil =>
      rw [run_succ_of_next k s s (step_nil s hp), ih, hp, List.take_nil, List.take_nil, List.drop_nil, List.drop_nil]
    | cons e rest =>
      rw [run_succ_of_next k s _ (step_eq_tick s e rest hp), ih, List.take_succ_cons, List.drop_succ_cons, Params.run_cons,
        List.append_assoc]

/-- After a reset edge the registers and the further events are those of the default realisation run from its reset registers:
only the events produced before are left of the state. -/
theorem coreRun_of_rst (k : Nat) (s : State) (e : PortEdge) (rest : List PortEdge) (hr : e.rst = true)
    (h : s.cmdPort = e :: rest) :
    Host.Core.run core (k + 1) s =
      .next
        { regs := (Config.params.run (rest.take k) Regs.reset).1
          cmdPort := rest.drop k
          events := s.events ++ (Config.params.run (rest.take k) Regs.reset).2 } := by
  rw [run_succ_of_next k s _ (step_rst s e rest h hr), coreRun_eq_run_take]

/-- Settles O14: by `coreRun_of_rst` both runs are the one from the reset registers. -/
theorem resetForgetsThePast : Obligations.ResetForgetsThePast := fun k s s' e rest hr h h' =>
  ⟨_, _, _, coreRun_of_rst k s e rest hr h, coreRun_of_rst k s' e rest hr h', rfl, rfl, rfl, rfl⟩

/-! ### Patterns told apart by the sample rate -/

section windows
variable {hi lo : Timestamp tsw}

/-- Two patterns whose entries for one phase lie more than two margins apart share no pair of distances: the windows of that
phase are disjoint. -/
theorem Profile.not_fits_of_separated {P : Profile rateW} {p q : Pattern} (ph : Phase) (hp : P.Fits p hi lo)
    (hsep : (P.lut p ph).toNat + 2 * P.margin.toNat < (P.lut q ph).toNat) : ¬ P.Fits q hi lo := by
  rintro ⟨⟨hhi, -⟩, hlo, -⟩
  obtain ⟨⟨-, hhi'⟩, -, hlo'⟩ := hp
  cases ph with
  | hi => omega
  | lo => omega

@[simp] theorem Profile.zero_lut (p : Pattern) (ph : Phase) : (Profile.zero : Profile rateW).lut p ph = 0 := by
  cases p <;> cases ph <;> rfl

@[simp] theorem Profile.zero_margin : (Profile.zero : Profile rateW).margin = 0 := rfl

/-- The cleared profile has the pair `(0, 0)` as its one reading, for every pattern. -/
theorem Profile.zero_fits_iff (p : Pattern) : (Profile.zero : Profile rateW).Fits p hi lo ↔ hi = 0 ∧ lo = 0 := by
  simp [Profile.Fits, BitVec.toNat_eq]

end windows

section rates
variable (rate : Count rateW)

/-- From rate 589 on the START entry is told from the other two by its high phase. -/
theorem profileOf_start_separated (h : 589 ≤ rate.toNat) :
    (profileOf rate.toNat rateW).bit1Hi.toNat + 2 * (profileOf rate.toNat rateW).margin.toNat <
      (profileOf rate.toNat rateW).startbitHi.toNat := by
  obtain ⟨hsHi, -, hHi, -, hm⟩ := profileOf_toNat rate
  rw [hsHi, hHi, hm]
  omega

/-- From rate 589 on BIT1 is told from BIT0 by its low phase. 589 is the first rate with `bit1_lo` above 0; up to 1818 every entry
of BIT0 and the margin are 0, and above that rate the slopes of the two entries decide. -/
theorem profileOf_bit1_separated (h : 589 ≤ rate.toNat) :
    (profileOf rate.toNat rateW).bit1Hi.toNat + 2 * (profileOf rate.toNat rateW).margin.toNat <
      (profileOf rate.toNat rateW).bit1Lo.toNat := by
  obtain ⟨-, -, hHi, hLo, hm⟩ := profileOf_toNat rate
  rw [hHi, hLo, hm]
  rcases Nat.lt_or_ge 1818 rate.toNat with hhigh | hlow
  · omega
  · have hHi_zero : rate.toNat * 11 / 20000 = 0 := by omega
    rw [hHi_zero]
    omega

/-- From rate 589 on a pair fits at most one pattern. -/
theorem profileOf_fits_unique (h : 589 ≤ rate.toNat) {p q : Pattern} {hi lo : Timestamp tsw}
    (hp : (profileOf rate.toNat rateW).Fits p hi lo) (hq : (profileOf rate.toNat rateW).Fits q hi lo) : p = q := by
  have hstart := profileOf_start_separated rate h
  have hbit1 := profileOf_bit1_separated rate h
  match p, q with
  | .start, .start | .bit1, .bit1 | .bit0, .bit0 => rfl
  | .bit1, .start | .bit0, .start => exact absurd hq (Profile.not_fits_of_separated .hi hp hstart)
  | .start, .bit1 | .start, .bit0 => exact absurd hp (Profile.not_fits_of_separated .hi hq hstart)
  | .bit0, .bit1 => exact absurd hq (Profile.not_fits_of_separated .lo hp hbit1)
  | .bit1, .bit0 => exact absurd hp (Profile.not_fits_of_separated .lo hq hbit1)

/-- Up to rate 588 the low entry of BIT1 is that of BIT0. -/
theorem profileOf_bit1Lo_eq_bit0Lo (h : rate.toNat ≤ 588) :
    (profileOf rate.toNat rateW).bit1Lo = (profileOf rate.toNat rateW).bit0Lo := by
  obtain ⟨-, -, hHi, hLo, -⟩ := profileOf_toNat rate
  refine BitVec.eq_of_toNat_eq ?_
  rw [profileOf_bit0Lo, hHi, hLo]
  omega

/-- Up to rate 588 BIT0 and BIT1 are the same pair of windows. -/
theorem profileOf_fits_bit0_iff (h : rate.toNat ≤ 588) (hi lo : Timestamp tsw) :
    (profileOf rate.toNat rateW).Fits .bit0 hi lo ↔ (profileOf rate.toNat rateW).Fits .bit1 hi lo := by
  simp only [Profile.Fits, Profile.lut, profileOf_bit0Hi, profileOf_bit1Lo_eq_bit0Lo rate h]

end rates

/-- Settles O43: the three ranges of rates, each by its lemmas above; that no pair is read as 0 is the precedence of BIT1. -/
theorem patternWindowsByRate : Obligations.PatternWindowsByRate := by
  refine fun rate hi lo => ⟨fun h p q => ?distinct, fun _ h => ?merged, fun _ h p => ?zero⟩
  case distinct => exact profileOf_fits_unique rate (BitVec.le_def.1 h)
  case merged =>
    have hiff := profileOf_fits_bit0_iff rate (BitVec.le_def.1 h) hi lo
    exact ⟨hiff, fun ⟨_, hbit1, hbit0⟩ => hbit1 (hiff.1 hbit0)⟩
  case zero =>
    rw [profileOf_eq_zero rate (BitVec.le_def.1 h)]
    exact Profile.zero_fits_iff p

end Sys2Proof.Machine
end
